-- ==== Sys2Proof/Word.lean ====
section
/-! DEFINITION. The widths of the MIC-1 core (00_scope.md R7, R9, R10) and the names of its registers (10_state.md R20). -/

namespace Sys2Proof

/-- `XLEN` = 32 bits: a register, an ALU operand, a memory word (R7). -/
abbrev Word := BitVec 32

/-- One byte of main memory or of an image; `MBR_BITS` = 8 (R7). -/
abbrev Byte := BitVec 8

/-- A control-store address; `MPC_BITS` = 9 (R7, R24). -/
abbrev MAddr := BitVec 9

/-- One packed control word; `CW_BITS` = 36 (R7, R101). -/
abbrev CWord := BitVec 36

/-- The B field of a microinstruction, 4 bits (R100). -/
abbrev Selector := BitVec 4

/-- `CS_SLOTS` = 512 control-store slots (R7, R36). -/
def csSlots : Nat := 512

/-- The 11 registers (R20). -/
inductive Reg where
  | mar | mdr | pc | mbr | mbru | sp | lv | cpp | tos | opc | h
  deriving DecidableEq, Repr

end Sys2Proof
end

