-- ==== Sys2Proof/Config.lean ====
section
/-! DEFINITION. The parameters the spec leaves open (00_scope.md R8), as one record of plain data, the values the spec
suggests for them, and the two values nothing is known of: the outcomes of the race of 44_memops.md R215 and the bytes of an
endless INPUT. -/

namespace Sys2Proof

/-- `LAYOUT` (R8, R102, D1): the bit of the 36-bit control word at which each field lies. `addr` and `b` are the places of
the least significant bit of the two fields of more than one bit, whose bits are consecutive. -/
structure Layout where
  addr : Nat
  jmpc : Nat
  jmpn : Nat
  jmpz : Nat
  sll8 : Nat
  sra1 : Nat
  f0 : Nat
  f1 : Nat
  ena : Nat
  enb : Nat
  inva : Nat
  inc : Nat
  cH : Nat
  cOpc : Nat
  cTos : Nat
  cCpp : Nat
  cLv : Nat
  cSp : Nat
  cPc : Nat
  cMdr : Nat
  cMar : Nat
  write : Nat
  read : Nat
  fetch : Nat
  b : Nat
  deriving DecidableEq, Repr

/-- The layout of R102 (spec decision D1; log 7). -/
def Layout.textbook : Layout where
  addr := 27
  jmpc := 26
  jmpn := 25
  jmpz := 24
  sll8 := 23
  sra1 := 22
  f0 := 21
  f1 := 20
  ena := 19
  enb := 18
  inva := 17
  inc := 16
  cH := 15
  cOpc := 14
  cTos := 13
  cCpp := 12
  cLv := 11
  cSp := 10
  cPc := 9
  cMdr := 8
  cMar := 7
  write := 6
  read := 5
  fetch := 4
  b := 0

/-- `BSEL` (R8, R191, D4): entry `c` is the register that selector code `c` puts on the B bus, any of the 11; `none`, or no
entry, is a code that selects nothing (log 9). -/
abbrev BSel := List (Option Reg)

/-- The table of R191 (spec decision D4; log 9). -/
def BSel.textbook : BSel :=
  [some .mdr, some .pc, some .mbr, some .mbru, some .sp, some .lv, some .cpp, some .tos, some .opc,
   none, none, none, none, none, none, none]

/-- A finite or infinite sequence of bytes (R8, R38): the bytes of `queue`, and after them, where `endless` is `some k`, the bytes
`Config.endlessInput k`, `Config.endlessInput (k + 1)` and so on (log 12). -/
structure InputSeq where
  queue : List Byte
  endless : Option Nat
  deriving DecidableEq, Repr

/-- The parameters of R8 but for `CS`, which is a field of the state of its own. The state carries this record and no step
changes it (R41; log 5). -/
structure Config where
  /-- `MEM_WORDS`, at least 1 (D11). -/
  memWords : Nat
  /-- `MEM_INIT` (D12), as the list of the bytes that are not 0: (byte address, byte). -/
  memInit : List (Nat × Byte)
  /-- `IO_ADDR`, not below `MEM_WORDS` (D13). -/
  ioAddr : Word
  /-- `INPUT` (D13; log 12). -/
  input : InputSeq
  /-- `MIC1_MAGIC` (D3). -/
  mic1Magic : Word
  /-- `LAYOUT` (D1). -/
  layout : Layout
  /-- `RECORD_BYTES` (D2). -/
  recordBytes : Nat
  /-- `BSEL` (D4). -/
  bsel : BSel
  /-- `RESET_SP` (D8). -/
  resetSp : Word
  /-- `RESET_LV` (D8). -/
  resetLv : Word
  /-- `RESET_CPP` (D8). -/
  resetCpp : Word
  /-- `RESET_PC`, not a valid byte address (D8). -/
  resetPc : Word
  /-- `MAIN1_ADDR` (D20). -/
  main1Addr : MAddr
  /-- `REJECT_ILLEGAL_AT_LOAD` (D7). -/
  rejectIllegalAtLoad : Bool
  deriving DecidableEq, Repr

/-- The values R8 suggests. R8 suggests none for `MEM_WORDS` (here the test vectors' 0x100), `INPUT` (here empty) and
`MAIN1_ADDR` (here 0): DESIGN CHOICE (log 5, 6, 12). -/
def Config.suggested : Config where
  memWords := 0x100
  memInit := []
  ioAddr := 0xFFFFFFFD#32
  input := ⟨[], none⟩
  mic1Magic := 0x12345678#32
  layout := Layout.textbook
  recordBytes := 5
  bsel := BSel.textbook
  resetSp := 0x0000C000#32
  resetLv := 0x00008000#32
  resetCpp := 0x00004000#32
  resetPc := 0xFFFFFFFF#32
  main1Addr := 0#9
  rejectIllegalAtLoad := false

/-- FREE VALUE (log 4). R215: when FETCH and WRITE of one microinstruction touch one word, the fetched byte is the byte before
the write or the byte after it and the spec does not say which. The `n`-th such race of a run takes the byte after the write
exactly when this is true; nothing is known of it. -/
opaque Config.raceSeesNewByte : Nat → Bool

/-- A PARAMETER WITHOUT A VALUE (log 12): the bytes of an infinite INPUT (R8), which no finite datum can hold. Nothing is known of
them, so a claim about an endless input holds for every one. -/
opaque Config.endlessInput : Nat → Byte

end Sys2Proof
end

