-- ==== Sys2Proof/Syntax.lean ====
section
/-! DEFINITION. The decoded microinstruction (30_encoding.md R100) and the micro-operations of spec/opcode_table.json, one
constructor of `Instr` a row. A control word selects several rows at once and a tick performs them all (R14, R105; log 1). -/

namespace Sys2Proof

/-- Field `alu` of R100: the six control lines of the word ALU. -/
structure AluSig where
  ena : Bool
  enb : Bool
  f0 : Bool
  f1 : Bool
  inva : Bool
  inc : Bool
  deriving DecidableEq, Repr

/-- Field `sh` of R100. -/
structure ShSig where
  sll8 : Bool
  sra1 : Bool
  deriving DecidableEq, Repr

/-- Field `C` of R100: the nine registers the C bus can write. -/
structure CSet where
  h : Bool
  opc : Bool
  tos : Bool
  cpp : Bool
  lv : Bool
  sp : Bool
  pc : Bool
  mdr : Bool
  mar : Bool
  deriving DecidableEq, Repr

/-- Field `mem` of R100. -/
structure MemSig where
  fetch : Bool
  read : Bool
  write : Bool
  deriving DecidableEq, Repr

/-- Field `jam` of R100. -/
structure JamSig where
  jmpc : Bool
  jmpn : Bool
  jmpz : Bool
  deriving DecidableEq, Repr

/-- A decoded microinstruction: the record of seven fields of R100, 36 bits in all. -/
structure MicroInstr where
  alu : AluSig
  sh : ShSig
  c : CSet
  b : Selector
  mem : MemSig
  jam : JamSig
  addr : MAddr
  deriving DecidableEq, Repr

/-- The micro-operations, in the order of spec/opcode_table.json. The only row with an operand of its own is NEXT, whose
operand is the 9-bit field `Addr` (R104, R181). -/
inductive Instr where
  | aluAnd | aluOr | aluNotb | aluSum
  | ena | enb | inva | inc
  | shPass | sll8 | sra1 | shIllegal
  | cH | cOpc | cTos | cCpp | cLv | cSp | cPc | cMdr | cMar
  | bMdr | bPc | bMbr | bMbru | bSp | bLv | bCpp | bTos | bOpc
  | bNone9 | bNone10 | bNone11 | bNone12 | bNone13 | bNone14 | bNone15
  | fetch | read | write | memIllegal
  | jmpc | jmpn | jmpz
  | nextAddr (addr : MAddr)
  deriving DecidableEq, Repr

end Sys2Proof
end

