-- ==== Sys2Proof/Decode.lean ====
section
/-! DEFINITION. From bytes to a control word (30_encoding.md R122), from a control word to its record (R102, R103), from a
record to the micro-operations it selects (R105), and the encoders back. Byte order and bit fields are decided here once. -/

namespace Sys2Proof

/-! ## Big-endian numbers -/

/-- The number a sequence of bytes writes, first byte most significant (R120, 20_memory.md R86, R87). -/
def beNat (bs : List Byte) : Nat := bs.foldl (fun n b => n * 256 + b.toNat) 0

/-- The `n` low bytes of `v`, most significant first. -/
def beBytes : Nat → Nat → List Byte
  | 0, _ => []
  | n + 1, v => BitVec.ofNat 8 (v / 256 ^ n) :: beBytes n v

/-! ## The control word and its record -/

/-- R102, R103: every one of the 2^36 words is exactly one record, each field the bits at its place. -/
def decodeWord (L : Layout) (w : CWord) : MicroInstr where
  alu := ⟨w.getLsbD L.ena, w.getLsbD L.enb, w.getLsbD L.f0, w.getLsbD L.f1, w.getLsbD L.inva, w.getLsbD L.inc⟩
  sh := ⟨w.getLsbD L.sll8, w.getLsbD L.sra1⟩
  c := ⟨w.getLsbD L.cH, w.getLsbD L.cOpc, w.getLsbD L.cTos, w.getLsbD L.cCpp, w.getLsbD L.cLv, w.getLsbD L.cSp,
    w.getLsbD L.cPc, w.getLsbD L.cMdr, w.getLsbD L.cMar⟩
  b := w.extractLsb' L.b 4
  mem := ⟨w.getLsbD L.fetch, w.getLsbD L.read, w.getLsbD L.write⟩
  jam := ⟨w.getLsbD L.jmpc, w.getLsbD L.jmpn, w.getLsbD L.jmpz⟩
  addr := w.extractLsb' L.addr 9

/-- The word with bit `p` set and no other. -/
def bitAt (p : Nat) : CWord := 1#36 <<< p

/-- A word with bit `p` set when `v` holds and no other bit. -/
def flagAt (p : Nat) (v : Bool) : CWord := if v then bitAt p else 0#36

/-- R103: every record is exactly one word, each field put at its place. -/
def encodeWord (L : Layout) (mi : MicroInstr) : CWord :=
  (mi.addr.setWidth 36 <<< L.addr) |||
  flagAt L.jmpc mi.jam.jmpc ||| flagAt L.jmpn mi.jam.jmpn ||| flagAt L.jmpz mi.jam.jmpz |||
  flagAt L.sll8 mi.sh.sll8 ||| flagAt L.sra1 mi.sh.sra1 |||
  flagAt L.f0 mi.alu.f0 ||| flagAt L.f1 mi.alu.f1 ||| flagAt L.ena mi.alu.ena ||| flagAt L.enb mi.alu.enb |||
  flagAt L.inva mi.alu.inva ||| flagAt L.inc mi.alu.inc |||
  flagAt L.cH mi.c.h ||| flagAt L.cOpc mi.c.opc ||| flagAt L.cTos mi.c.tos ||| flagAt L.cCpp mi.c.cpp |||
  flagAt L.cLv mi.c.lv ||| flagAt L.cSp mi.c.sp ||| flagAt L.cPc mi.c.pc ||| flagAt L.cMdr mi.c.mdr |||
  flagAt L.cMar mi.c.mar |||
  flagAt L.write mi.mem.write ||| flagAt L.read mi.mem.read ||| flagAt L.fetch mi.mem.fetch |||
  (mi.b.setWidth 36 <<< L.b)

/-! ## Records of an image -/

/-- R122: the control word of a record of `n` bytes is its first 36 bits, most significant first; the other bits are padding
and ignored. -/
def wordOfRecord (n : Nat) (bs : List Byte) : CWord := BitVec.ofNat 36 (beNat bs >>> (8 * n - 36))

/-- R122: an encoder writes the padding bits as 0. -/
def recordOfWord (n : Nat) (w : CWord) : List Byte := beBytes n (w.toNat <<< (8 * n - 36))

/-- Why bytes are no record. -/
inductive DecodeError where
  /-- R123: fewer bytes than a record has. -/
  | truncatedRecord
  deriving DecidableEq, Repr

/-- The record at the head of a sequence of bytes and the bytes after it; total, the one rejection by name. -/
def decodeRecord (L : Layout) (n : Nat) (bs : List Byte) : Except DecodeError (MicroInstr × List Byte) :=
  if bs.length < n then .error .truncatedRecord
  else .ok (decodeWord L (wordOfRecord n (bs.take n)), bs.drop n)

/-! ## The micro-operations a record selects (R105) -/

/-- The micro-operation `i` when its signal is set. -/
def opIf (c : Bool) (i : Instr) : List Instr := if c then [i] else []

/-- The register selector code `code` puts on the B bus, if any (R191). -/
def BSel.source (bsel : BSel) (code : Selector) : Option Reg := bsel.getD code.toNat none

/-- The row of an unassigned selector code (R409: all seven behave alike). A code below 9 reaches here only under another
`BSEL` than R191's (log 9). -/
def noneRow (code : Selector) : Instr :=
  match code.toNat with
  | 10 => .bNone10
  | 11 => .bNone11
  | 12 => .bNone12
  | 13 => .bNone13
  | 14 => .bNone14
  | 15 => .bNone15
  | _ => .bNone9

/-- The row of a B-bus source (R400 to R408). MAR and H have none: under R191 no code selects them (R192, R193), and under a
`BSEL` that does the B input is theirs without a row (`Machine.rowlessB`; log 9). -/
def Reg.bRows : Reg → List Instr
  | .mdr => [.bMdr]
  | .pc => [.bPc]
  | .mbr => [.bMbr]
  | .mbru => [.bMbru]
  | .sp => [.bSp]
  | .lv => [.bLv]
  | .cpp => [.bCpp]
  | .tos => [.bTos]
  | .opc => [.bOpc]
  | .mar | .h => []

/-- Group `b_sel`: exactly one row, but for a source that has none (R191). -/
def bRows (bsel : BSel) (code : Selector) : List Instr :=
  match bsel.source code with
  | some r => r.bRows
  | none => [noneRow code]

/-- Group `alu_fn`: exactly one row (R144). -/
def AluSig.fnRow (g : AluSig) : Instr :=
  match g.f0, g.f1 with
  | false, false => .aluAnd
  | false, true => .aluOr
  | true, false => .aluNotb
  | true, true => .aluSum

/-- Group `alu_mod`: any subset (R154 to R157). -/
def AluSig.modRows (g : AluSig) : List Instr :=
  opIf g.ena .ena ++ opIf g.enb .enb ++ opIf g.inva .inva ++ opIf g.inc .inc

/-- Group `shift`: exactly one row (R171 to R174). -/
def ShSig.row (g : ShSig) : Instr :=
  match g.sll8, g.sra1 with
  | false, false => .shPass
  | true, false => .sll8
  | false, true => .sra1
  | true, true => .shIllegal

/-- Group `c_bus`: any subset, in the order of R194. -/
def CSet.rows (g : CSet) : List Instr :=
  opIf g.h .cH ++ opIf g.opc .cOpc ++ opIf g.tos .cTos ++ opIf g.cpp .cCpp ++ opIf g.lv .cLv ++ opIf g.sp .cSp ++
  opIf g.pc .cPc ++ opIf g.mdr .cMdr ++ opIf g.mar .cMar

/-- The single-bit rows of group `mem`. -/
def MemSig.accessRows (g : MemSig) : List Instr :=
  opIf g.fetch .fetch ++ opIf g.read .read ++ opIf g.write .write

/-- The illegal pair of group `mem` (R214). -/
def MemSig.illegalRows (g : MemSig) : List Instr := opIf (g.read && g.write) .memIllegal

/-- Group `jam`: any subset (R182 to R184). -/
def JamSig.rows (g : JamSig) : List Instr := opIf g.jmpc .jmpc ++ opIf g.jmpn .jmpn ++ opIf g.jmpz .jmpz

/-- The rows of phase 1 in the order of R231: the B bus, the ALU's modifiers, its function, the shifter. -/
def MicroInstr.computeOps (bsel : BSel) (mi : MicroInstr) : List Instr :=
  bRows bsel mi.b ++ (mi.alu.modRows ++ [mi.alu.fnRow, mi.sh.row])

/-- The rows of phase 2. -/
def MicroInstr.writeOps (mi : MicroInstr) : List Instr := mi.c.rows

/-- The rows of phase 3 that form the next address (R180): `Addr` first, then what the jump signals do to it. -/
def MicroInstr.nextOps (mi : MicroInstr) : List Instr := .nextAddr mi.addr :: mi.jam.rows

/-- All the rows a record selects (R105). -/
def MicroInstr.ops (bsel : BSel) (mi : MicroInstr) : List Instr :=
  mi.computeOps bsel ++ mi.writeOps ++ mi.mem.illegalRows ++ mi.mem.accessRows ++ mi.nextOps

/-- The micro-operation by which a control word is named when ONE name is asked for (log 1): the first row it selects that is
no default, groups taken in the order shift, mem, jam, c_bus, alu_mod, alu_fn, b_sel, next; ALU.AND for the all-zero word. -/
def MicroInstr.leadingOp (mi : MicroInstr) : Instr :=
  (opIf (mi.sh.sll8 || mi.sh.sra1) mi.sh.row ++ mi.mem.illegalRows ++ mi.mem.accessRows ++ mi.jam.rows ++ mi.c.rows ++
    mi.alu.modRows ++ opIf (mi.alu.f0 || mi.alu.f1) mi.alu.fnRow ++ (if mi.b = 0#4 then [] else bRows BSel.textbook mi.b) ++
    opIf (mi.addr != 0#9) (.nextAddr mi.addr)).headD .aluAnd

/-! ## The words of spec/opcode_table.json -/

/-- The control word that the low `nbits` bits of `w` write, numbered as spec/opcode_table.json numbers them. -/
def tableWord (nbits w : Nat) : CWord := BitVec.ofNat 36 (w % 2 ^ nbits)

/-- The record this decoder reads from that word, laid out as a 5-byte image record (R122). -/
def decodeTableMicro (nbits w : Nat) : Option MicroInstr :=
  match decodeRecord Layout.textbook 5 (recordOfWord 5 (tableWord nbits w)) with
  | .ok (mi, _) => some mi
  | .error _ => none

/-- The row that names the word (log 1). -/
def decodeTableWord (nbits w : Nat) : Option Instr := (decodeTableMicro nbits w).map MicroInstr.leadingOp

/-! ## The encoder -/

/-- The record with every signal 0 (its selector code is 0). -/
def MicroInstr.blank : MicroInstr where
  alu := ⟨false, false, false, false, false, false⟩
  sh := ⟨false, false⟩
  c := ⟨false, false, false, false, false, false, false, false, false⟩
  b := 0#4
  mem := ⟨false, false, false⟩
  jam := ⟨false, false, false⟩
  addr := 0#9

/-- The record that selects the row `i`, every other signal 0. -/
def Instr.control : Instr → MicroInstr
  | .aluAnd => .blank
  | .aluOr => { MicroInstr.blank with alu := ⟨false, false, false, true, false, false⟩ }
  | .aluNotb => { MicroInstr.blank with alu := ⟨false, false, true, false, false, false⟩ }
  | .aluSum => { MicroInstr.blank with alu := ⟨false, false, true, true, false, false⟩ }
  | .ena => { MicroInstr.blank with alu := ⟨true, false, false, false, false, false⟩ }
  | .enb => { MicroInstr.blank with alu := ⟨false, true, false, false, false, false⟩ }
  | .inva => { MicroInstr.blank with alu := ⟨false, false, false, false, true, false⟩ }
  | .inc => { MicroInstr.blank with alu := ⟨false, false, false, false, false, true⟩ }
  | .shPass => .blank
  | .sll8 => { MicroInstr.blank with sh := ⟨true, false⟩ }
  | .sra1 => { MicroInstr.blank with sh := ⟨false, true⟩ }
  | .shIllegal => { MicroInstr.blank with sh := ⟨true, true⟩ }
  | .cH => { MicroInstr.blank with c := ⟨true, false, false, false, false, false, false, false, false⟩ }
  | .cOpc => { MicroInstr.blank with c := ⟨false, true, false, false, false, false, false, false, false⟩ }
  | .cTos => { MicroInstr.blank with c := ⟨false, false, true, false, false, false, false, false, false⟩ }
  | .cCpp => { MicroInstr.blank with c := ⟨false, false, false, true, false, false, false, false, false⟩ }
  | .cLv => { MicroInstr.blank with c := ⟨false, false, false, false, true, false, false, false, false⟩ }
  | .cSp => { MicroInstr.blank with c := ⟨false, false, false, false, false, true, false, false, false⟩ }
  | .cPc => { MicroInstr.blank with c := ⟨false, false, false, false, false, false, true, false, false⟩ }
  | .cMdr => { MicroInstr.blank with c := ⟨false, false, false, false, false, false, false, true, false⟩ }
  | .cMar => { MicroInstr.blank with c := ⟨false, false, false, false, false, false, false, false, true⟩ }
  | .bMdr => .blank
  | .bPc => { MicroInstr.blank with b := 1#4 }
  | .bMbr => { MicroInstr.blank with b := 2#4 }
  | .bMbru => { MicroInstr.blank with b := 3#4 }
  | .bSp => { MicroInstr.blank with b := 4#4 }
  | .bLv => { MicroInstr.blank with b := 5#4 }
  | .bCpp => { MicroInstr.blank with b := 6#4 }
  | .bTos => { MicroInstr.blank with b := 7#4 }
  | .bOpc => { MicroInstr.blank with b := 8#4 }
  | .bNone9 => { MicroInstr.blank with b := 9#4 }
  | .bNone10 => { MicroInstr.blank with b := 10#4 }
  | .bNone11 => { MicroInstr.blank with b := 11#4 }
  | .bNone12 => { MicroInstr.blank with b := 12#4 }
  | .bNone13 => { MicroInstr.blank with b := 13#4 }
  | .bNone14 => { MicroInstr.blank with b := 14#4 }
  | .bNone15 => { MicroInstr.blank with b := 15#4 }
  | .fetch => { MicroInstr.blank with mem := ⟨true, false, false⟩ }
  | .read => { MicroInstr.blank with mem := ⟨false, true, false⟩ }
  | .write => { MicroInstr.blank with mem := ⟨false, false, true⟩ }
  | .memIllegal => { MicroInstr.blank with mem := ⟨false, true, true⟩ }
  | .jmpc => { MicroInstr.blank with jam := ⟨true, false, false⟩ }
  | .jmpn => { MicroInstr.blank with jam := ⟨false, true, false⟩ }
  | .jmpz => { MicroInstr.blank with jam := ⟨false, false, true⟩ }
  | .nextAddr a => { MicroInstr.blank with addr := a }

/-- The control word that selects the row `i`, every bit the row does not fix 0. -/
def encode (i : Instr) : CWord := encodeWord Layout.textbook i.control

/-! ## Mask and match of each row (R133) -/

/-- The mask of a row: the bits of the signals or of the field it tests, where the layout has them (R105, R133). -/
def Instr.mask (L : Layout) : Instr → CWord
  | .aluAnd | .aluOr | .aluNotb | .aluSum => bitAt L.f0 ||| bitAt L.f1
  | .ena => bitAt L.ena
  | .enb => bitAt L.enb
  | .inva => bitAt L.inva
  | .inc => bitAt L.inc
  | .shPass | .sll8 | .sra1 | .shIllegal => bitAt L.sll8 ||| bitAt L.sra1
  | .cH => bitAt L.cH
  | .cOpc => bitAt L.cOpc
  | .cTos => bitAt L.cTos
  | .cCpp => bitAt L.cCpp
  | .cLv => bitAt L.cLv
  | .cSp => bitAt L.cSp
  | .cPc => bitAt L.cPc
  | .cMdr => bitAt L.cMdr
  | .cMar => bitAt L.cMar
  | .bMdr | .bPc | .bMbr | .bMbru | .bSp | .bLv | .bCpp | .bTos | .bOpc => 0xF#36 <<< L.b
  | .bNone9 | .bNone10 | .bNone11 | .bNone12 | .bNone13 | .bNone14 | .bNone15 => 0xF#36 <<< L.b
  | .fetch => bitAt L.fetch
  | .read => bitAt L.read
  | .write => bitAt L.write
  | .memIllegal => bitAt L.read ||| bitAt L.write
  | .jmpc => bitAt L.jmpc
  | .jmpn => bitAt L.jmpn
  | .jmpz => bitAt L.jmpz
  | .nextAddr _ => 0#36

/-- The match of a row: those of its mask's bits that must be 1. A single-bit row needs its bit, and the illegal pair of `mem` both
of its bits. -/
def Instr.pattern (L : Layout) : Instr → CWord
  | .aluAnd | .shPass | .nextAddr _ => 0#36
  | .aluOr => bitAt L.f1
  | .aluNotb => bitAt L.f0
  | .sll8 => bitAt L.sll8
  | .sra1 => bitAt L.sra1
  | .bMdr => 0#36
  | .bPc => 1#36 <<< L.b
  | .bMbr => 2#36 <<< L.b
  | .bMbru => 3#36 <<< L.b
  | .bSp => 4#36 <<< L.b
  | .bLv => 5#36 <<< L.b
  | .bCpp => 6#36 <<< L.b
  | .bTos => 7#36 <<< L.b
  | .bOpc => 8#36 <<< L.b
  | .bNone9 => 9#36 <<< L.b
  | .bNone10 => 10#36 <<< L.b
  | .bNone11 => 11#36 <<< L.b
  | .bNone12 => 12#36 <<< L.b
  | .bNone13 => 13#36 <<< L.b
  | .bNone14 => 14#36 <<< L.b
  | .bNone15 => 15#36 <<< L.b
  | .aluSum => Instr.mask L .aluSum
  | .ena => Instr.mask L .ena
  | .enb => Instr.mask L .enb
  | .inva => Instr.mask L .inva
  | .inc => Instr.mask L .inc
  | .shIllegal => Instr.mask L .shIllegal
  | .cH => Instr.mask L .cH
  | .cOpc => Instr.mask L .cOpc
  | .cTos => Instr.mask L .cTos
  | .cCpp => Instr.mask L .cCpp
  | .cLv => Instr.mask L .cLv
  | .cSp => Instr.mask L .cSp
  | .cPc => Instr.mask L .cPc
  | .cMdr => Instr.mask L .cMdr
  | .cMar => Instr.mask L .cMar
  | .fetch => Instr.mask L .fetch
  | .read => Instr.mask L .read
  | .write => Instr.mask L .write
  | .memIllegal => Instr.mask L .memIllegal
  | .jmpc => Instr.mask L .jmpc
  | .jmpn => Instr.mask L .jmpn
  | .jmpz => Instr.mask L .jmpz

/-- R133: a control word selects a row when it agrees with the row's match under its mask; the row NEXT matches every word and
its operand is the field `Addr`. -/
def Instr.selectedBy (L : Layout) (i : Instr) (w : CWord) : Bool :=
  (w &&& i.mask L == i.pattern L) &&
    match i with
    | .nextAddr a => a == w.extractLsb' L.addr 9
    | _ => true

/-- The `mask` column as spec/opcode_table.json has it, which is for the layout of R102. -/
def Instr.tableMask : Instr → CWord
  | .aluAnd | .aluOr | .aluNotb | .aluSum => 0x000300000#36
  | .ena => 0x000080000#36
  | .enb => 0x000040000#36
  | .inva => 0x000020000#36
  | .inc => 0x000010000#36
  | .shPass | .sll8 | .sra1 | .shIllegal => 0x000C00000#36
  | .cH => 0x000008000#36
  | .cOpc => 0x000004000#36
  | .cTos => 0x000002000#36
  | .cCpp => 0x000001000#36
  | .cLv => 0x000000800#36
  | .cSp => 0x000000400#36
  | .cPc => 0x000000200#36
  | .cMdr => 0x000000100#36
  | .cMar => 0x000000080#36
  | .bMdr | .bPc | .bMbr | .bMbru | .bSp | .bLv | .bCpp | .bTos | .bOpc => 0x00000000F#36
  | .bNone9 | .bNone10 | .bNone11 | .bNone12 | .bNone13 | .bNone14 | .bNone15 => 0x00000000F#36
  | .fetch => 0x000000010#36
  | .read => 0x000000020#36
  | .write => 0x000000040#36
  | .memIllegal => 0x000000060#36
  | .jmpc => 0x004000000#36
  | .jmpn => 0x002000000#36
  | .jmpz => 0x001000000#36
  | .nextAddr _ => 0x000000000#36

/-- The `match` column as spec/opcode_table.json has it. -/
def Instr.tablePattern : Instr → CWord
  | .aluAnd => 0x000000000#36
  | .aluOr => 0x000100000#36
  | .aluNotb => 0x000200000#36
  | .aluSum => 0x000300000#36
  | .ena => 0x000080000#36
  | .enb => 0x000040000#36
  | .inva => 0x000020000#36
  | .inc => 0x000010000#36
  | .shPass => 0x000000000#36
  | .sll8 => 0x000800000#36
  | .sra1 => 0x000400000#36
  | .shIllegal => 0x000C00000#36
  | .cH => 0x000008000#36
  | .cOpc => 0x000004000#36
  | .cTos => 0x000002000#36
  | .cCpp => 0x000001000#36
  | .cLv => 0x000000800#36
  | .cSp => 0x000000400#36
  | .cPc => 0x000000200#36
  | .cMdr => 0x000000100#36
  | .cMar => 0x000000080#36
  | .bMdr => 0x000000000#36
  | .bPc => 0x000000001#36
  | .bMbr => 0x000000002#36
  | .bMbru => 0x000000003#36
  | .bSp => 0x000000004#36
  | .bLv => 0x000000005#36
  | .bCpp => 0x000000006#36
  | .bTos => 0x000000007#36
  | .bOpc => 0x000000008#36
  | .bNone9 => 0x000000009#36
  | .bNone10 => 0x00000000A#36
  | .bNone11 => 0x00000000B#36
  | .bNone12 => 0x00000000C#36
  | .bNone13 => 0x00000000D#36
  | .bNone14 => 0x00000000E#36
  | .bNone15 => 0x00000000F#36
  | .fetch => 0x000000010#36
  | .read => 0x000000020#36
  | .write => 0x000000040#36
  | .memIllegal => 0x000000060#36
  | .jmpc => 0x004000000#36
  | .jmpn => 0x002000000#36
  | .jmpz => 0x001000000#36
  | .nextAddr _ => 0x000000000#36

end Sys2Proof
end

