-- ==== Sys2Proof/Machine/State.lean ====
section
/-! DEFINITION. The state of the machine (10_state.md R20 to R41) as plain data, its fault records, and the state right after
reset (R45). -/

namespace Sys2Proof.Machine

/-- The fault record of R32, with the cause codes of R275 that a tick can raise and the information R272 and R273 record.
`mi` is the content of `mir` at the raise. -/
inductive FaultRecord where
  /-- `Illegal.Shifter`: SLL8 and SRA1 both set, phase 1 (R174). -/
  | illegalShifter (mpc : MAddr) (mi : Option MicroInstr)
  /-- `Illegal.ReadWrite`: READ and WRITE both set, phase 3 (R214). -/
  | illegalReadWrite (mpc : MAddr) (mi : Option MicroInstr)
  /-- `Addressing.Fetch`: FETCH with a byte address outside memory (R210). -/
  | addressingFetch (addr : Word)
  /-- `Addressing.Read`: READ with a word address neither IO_ADDR nor inside memory (R211). -/
  | addressingRead (addr : Word)
  /-- `Addressing.Write`: WRITE with such an address (R212). -/
  | addressingWrite (addr : Word)
  deriving DecidableEq, Repr

/-- Why the machine does not step. -/
inductive Fault where
  /-- Answered by `step` in a state whose `fault` is set: the recorded fault is reported again and nothing changes (R240, R279).
  The raise itself is a next state (log 2). Safe. -/
  | reported (f : FaultRecord)
  /-- Answered by READ at IO_ADDR with `input` empty: the tick has no successor and no part of it takes effect (R78, D34). The
  machine is stuck, neither faulted nor halted (log 3). Safe. -/
  | awaitingInput
  deriving DecidableEq, Repr

/-- Why an instruction has no meaning here. -/
inductive Refusal where
  /-- An arm of `exec` without a meaning; no arm is left so. Safe. -/
  | notModelled (mnemonic : String)
  deriving DecidableEq, Repr

/-- A memory as the list of its bytes that are not `unlistedByte`, addresses strictly rising (log 10). -/
abbrev Memory := List Host.Cell

/-- The control store (R36): the defined slots by address, addresses strictly rising; an unlisted slot is empty. -/
abbrev ControlStore := List (Nat × MicroInstr)

/-- The register file (R20). -/
structure RegFile where
  mar : Word
  mdr : Word
  pc : Word
  mbr : Word
  mbru : Word
  sp : Word
  lv : Word
  cpp : Word
  tos : Word
  opc : Word
  h : Word
  deriving DecidableEq, Repr

/-- The word ALU: its inputs of the current tick (R140; the model's own fields, log 14) and its last outputs (R33). -/
structure AluUnit where
  a : Word
  b : Word
  sig : AluSig
  out : Word
  n : Bool
  z : Bool
  deriving DecidableEq, Repr

/-- The MPC calculator: its latched flags (R28) and its last output (R33). -/
structure MpcUnit where
  n : Bool
  z : Bool
  out : MAddr
  deriving DecidableEq, Repr

/-- The memory unit: staging latches (R34) and result latches (R35). -/
structure MemUnit where
  fetch : Bool
  read : Bool
  write : Bool
  byteAddr : Word
  wordAddr : Word
  wordValue : Word
  pendWord : Option Word
  pendByte : Option Byte
  deriving DecidableEq, Repr

/-- What a breakpoint waits for (60_exceptions.md R293). -/
inductive BreakpointKind where
  | register (r : Reg) (v : Word)
  | microLine (a : MAddr)
  | macroLine (a : Word)
  deriving DecidableEq, Repr

/-- A registered breakpoint with its id (R293). -/
structure Breakpoint where
  id : Nat
  kind : BreakpointKind
  deriving DecidableEq, Repr

/-- All state of one core (10_state.md). -/
structure State where
  /-- The parameters (R8, R41; log 5). -/
  cfg : Config
  /-- The control store `CS` (R36). -/
  cs : ControlStore
  regs : RegFile
  /-- The micro-program counter (R24). -/
  mpc : MAddr
  /-- The address the last executed microinstruction came from (R25). -/
  prevMpc : MAddr
  /-- The current microinstruction (R29). -/
  mir : Option MicroInstr
  /-- The tick counter (R30). -/
  ticks : Nat
  /-- The last macro-code address fetched (R31). -/
  lastMacroAddr : Option Word
  halted : Bool
  fault : Option FaultRecord
  alu : AluUnit
  /-- The shifter's last output, which is the C bus (R33, R170). -/
  shOut : Word
  mpcc : MpcUnit
  memu : MemUnit
  /-- Main memory (R37). -/
  mem : Memory
  /-- Bytes written to the I/O port, oldest first (R38, R76). -/
  output : List Byte
  /-- Bytes the I/O port has still to deliver (R38, R77). -/
  input : InputSeq
  /-- The breakpoint list in insertion order (R39, R293). -/
  breakpoints : List Breakpoint
  /-- The next breakpoint id (R293; log 18). -/
  nextBreakpointId : Nat
  /-- The arguments of the last `tick_done` (R292; the model's own field, log 15). -/
  tickDone : Option (MicroInstr × Bool)
  /-- How many races have been drawn (the model's own field, log 4). -/
  draws : Nat
  deriving DecidableEq, Repr

/-- The register file after reset (R45, R310). -/
def RegFile.afterReset (c : Config) : RegFile where
  mar := 0#32
  mdr := 0#32
  pc := c.resetPc
  mbr := 0#32
  mbru := 0#32
  sp := c.resetSp
  lv := c.resetLv
  cpp := c.resetCpp
  tos := 0#32
  opc := 0#32
  h := 0#32

/-- The word ALU after reset (R45; the inputs: log 14). -/
def AluUnit.afterReset : AluUnit where
  a := 0#32
  b := 0#32
  sig := ⟨false, false, false, false, false, false⟩
  out := 0#32
  n := false
  z := false

/-- The MPC calculator after reset (R45). -/
def MpcUnit.afterReset : MpcUnit where
  n := false
  z := false
  out := 0#9

/-- The memory unit after reset (R45). -/
def MemUnit.afterReset : MemUnit where
  fetch := false
  read := false
  write := false
  byteAddr := 0#32
  wordAddr := 0#32
  wordValue := 0#32
  pendWord := none
  pendByte := none

/-- A core right after construction from a control store and a memory (R313): streams and breakpoints as R313 says, all else as
R45 says. -/
def State.constructed (c : Config) (cs : ControlStore) (mem : Memory) : State where
  cfg := c
  cs := cs
  regs := RegFile.afterReset c
  mpc := 0#9
  prevMpc := 0#9
  mir := none
  ticks := 0
  lastMacroAddr := none
  halted := false
  fault := none
  alu := AluUnit.afterReset
  shOut := 0#32
  mpcc := MpcUnit.afterReset
  memu := MemUnit.afterReset
  mem := mem
  output := []
  input := c.input
  breakpoints := []
  nextBreakpointId := 0
  tickDone := none
  draws := 0

/-- The machine right after reset, with the suggested parameters, an empty control store and memory at MEM_INIT (R45; log 5, 6,
10, 11). -/
def State.reset : State := State.constructed Config.suggested [] Config.suggested.memInit

end Sys2Proof.Machine
end

