-- ==== Sys2Proof/Machine/Ops.lean ====
section
/-! DEFINITION. The shared operations: byte and word helpers, the register write of R196, main memory and its two ports
(20_memory.md), the control store, raising a fault and the reset that alone clears it (60_exceptions.md R279, 70 R310), and the
sequencing of micro-operations that a raise cuts short (45_tick.md R231). -/

namespace Sys2Proof.Machine

/-- What a step, or one micro-operation of it, answers. -/
abbrev Result := Host.Outcome State Fault Refusal

/-! ## Extensions (R11) -/

/-- `sext_32` of a byte. -/
def sext8 (c : Byte) : Word := c.signExtend 32

/-- `zext_32` of a byte. -/
def zext8 (c : Byte) : Word := c.setWidth 32

/-- `v[7:0]`. -/
def lowByte (v : Word) : Byte := v.setWidth 8

/-! ## Registers -/

/-- `x[r]` (R11). -/
def RegFile.get (x : RegFile) : Reg → Word
  | .mar => x.mar
  | .mdr => x.mdr
  | .pc => x.pc
  | .mbr => x.mbr
  | .mbru => x.mbru
  | .sp => x.sp
  | .lv => x.lv
  | .cpp => x.cpp
  | .tos => x.tos
  | .opc => x.opc
  | .h => x.h

/-- `x[r] <- v`, the one register write (R196): MBR is stored sign-extended from its low byte and derives MBRU; every other
register, MBRU included, stores `v` verbatim. -/
def RegFile.set (x : RegFile) (r : Reg) (v : Word) : RegFile :=
  match r with
  | .mar => { x with mar := v }
  | .mdr => { x with mdr := v }
  | .pc => { x with pc := v }
  | .mbr => { x with mbr := sext8 (lowByte v), mbru := zext8 (lowByte v) }
  | .mbru => { x with mbru := v }
  | .sp => { x with sp := v }
  | .lv => { x with lv := v }
  | .cpp => { x with cpp := v }
  | .tos => { x with tos := v }
  | .opc => { x with opc := v }
  | .h => { x with h := v }

/-- The state with `x[r] <- v` done. -/
def writeReg (s : State) (r : Reg) (v : Word) : State := { s with regs := s.regs.set r v }

/-! ## Main memory -/

/-- What a byte address not listed reads as (log 10). -/
def unlistedByte : Byte := 0#8

/-- `MemRead(ba, 1)` (R11). -/
def readByte : Memory → Nat → Byte
  | [], _ => unlistedByte
  | (a, b) :: m, ba => if ba = a then b else readByte m ba

/-- Putting a cell before a memory, unless it is what an unlisted address reads as. -/
def consCell (a : Nat) (b : Byte) (m : Memory) : Memory := if b = unlistedByte then m else (a, b) :: m

/-- Storing one byte; the form of `Memory.wf` is kept. -/
def writeByte : Memory → Nat → Byte → Memory
  | [], ba, v => consCell ba v []
  | (a, b) :: m, ba, v =>
    if ba < a then consCell ba v ((a, b) :: m)
    else if ba = a then consCell ba v m
    else (a, b) :: writeByte m ba v

/-- The canonical form: addresses strictly rising, no cell that reads as an unlisted one. -/
def Memory.wf (m : Memory) : Bool :=
  decide (m.Pairwise (fun x y => x.1 < y.1)) && m.all (fun x => x.2 != unlistedByte)

/-- Byte lane `k` of a word, lane 0 the most significant (R66): `v[31 - 8k : 24 - 8k]`. -/
def lane (v : Word) (k : Nat) : Byte := v.extractLsb' (24 - 8 * k) 8

/-- `MemRead(4 * w, 4)`: four bytes, big-endian (R66). -/
def readWord (m : Memory) (w : Nat) : Word :=
  readByte m (4 * w) ++ readByte m (4 * w + 1) ++ readByte m (4 * w + 2) ++ readByte m (4 * w + 3)

/-- `MemWrite(4 * w, 4, v)` (R66). -/
def writeWord (m : Memory) (w : Nat) (v : Word) : Memory :=
  writeByte (writeByte (writeByte (writeByte m (4 * w) (lane v 0)) (4 * w + 1) (lane v 1)) (4 * w + 2) (lane v 2))
    (4 * w + 3) (lane v 3)

/-- R69: a byte address is valid when it is below `4 * MEM_WORDS`. -/
def validByteAddr (c : Config) (b : Word) : Bool := decide (b.toNat < 4 * c.memWords)

/-- R69: a word address is inside memory when it is below `MEM_WORDS`. -/
def validWordAddr (c : Config) (w : Word) : Bool := decide (w.toNat < c.memWords)

/-- R69, R75: what the word port of a tick accepts. -/
def validPortAddr (c : Config) (w : Word) : Bool := decide (w = c.ioAddr) || validWordAddr c w

/-! ## The input stream -/

/-- The first byte of a sequence and the rest of it, if there is one (R77). -/
def nextInput (q : InputSeq) : Option (Byte × InputSeq) :=
  match q.queue with
  | c :: rest => some (c, { q with queue := rest })
  | [] => q.endless.map (fun k => (Config.endlessInput k, ⟨[], some (k + 1)⟩))

/-- A sequence extended at its end (R78). An endless one has no end, so nothing put there is ever delivered (log 12). -/
def extendInput (bs : List Byte) (q : InputSeq) : InputSeq :=
  match q.endless with
  | none => ⟨q.queue ++ bs, none⟩
  | some _ => q

/-! ## The control store -/

/-- `CS[a]` (R118). -/
def slotAt : ControlStore → MAddr → Option MicroInstr
  | [], _ => none
  | (k, mi) :: cs, a => if a.toNat = k then some mi else slotAt cs a

/-- The control store with one slot defined anew (used only when a program is placed, never by a tick: R84). -/
def placeSlot : ControlStore → MAddr → MicroInstr → ControlStore
  | [], a, mi => [(a.toNat, mi)]
  | (k, x) :: cs, a, mi =>
    if a.toNat < k then (a.toNat, mi) :: (k, x) :: cs
    else if a.toNat = k then (k, mi) :: cs
    else (k, x) :: placeSlot cs a mi

/-- The canonical form of a control store: addresses strictly rising and below 512. -/
def ControlStore.wf (cs : ControlStore) : Bool :=
  decide (cs.Pairwise (fun x y => x.1 < y.1)) && cs.all (fun x => decide (x.1 < csSlots))

/-- The microinstruction the next tick executes, if its slot holds one (R24). -/
def currentSlot (s : State) : Option MicroInstr := slotAt s.cs s.mpc

/-! ## Raising a fault, and reset -/

/-- `raise` (R231, R279): the fault is recorded; nothing is saved, nothing else changes and control goes nowhere (R278). -/
def raise (f : FaultRecord) (s : State) : State := { s with fault := some f }

/-- `reset()` (R310, R311), the only way out of a fault: every register, the cursor and the latches to the values of R45;
memory, control store, streams and breakpoints untouched. -/
def resetMachine (s : State) : State :=
  { State.constructed s.cfg s.cs s.mem with
    output := s.output
    input := s.input
    breakpoints := s.breakpoints
    nextBreakpointId := s.nextBreakpointId
    draws := s.draws }

/-! ## Sequencing (R231) -/

/-- Go on with `k` unless the machine has raised a fault, is stuck or was refused. -/
def andThen (r : Result) (k : State → Result) : Result :=
  match r with
  | .next s => if s.fault.isSome then .next s else k s
  | .fault f => .fault f
  | .refused f => .refused f

/-! ## Phase 1 and phase 3 glue -/

/-- The B input as far as no row of `b_sel` drives it: MAR or H under a `BSEL` that names one of them (R8, R193; log 9), 0
otherwise. -/
def rowlessB (bsel : BSel) (code : Selector) (x : RegFile) : Word :=
  match bsel.source code with
  | some .mar => x.mar
  | some .h => x.h
  | _ => 0#32

/-- The start of phase 1 (R231, R192): `mir` is loaded, the A input is H, no row has driven the B input or a control line. -/
def beginTick (mi : MicroInstr) (s : State) : State :=
  { s with
    mir := some mi
    alu := { s.alu with a := s.regs.h, b := rowlessB s.cfg.bsel mi.b s.regs, sig := ⟨false, false, false, false, false, false⟩ } }

/-- The fill of phase 2 (R216): a pending word goes to MDR, a pending byte to MBR, and the latches are emptied. -/
def fillWord (s : State) : State :=
  match s.memu.pendWord with
  | some v => { writeReg s .mdr v with memu := { s.memu with pendWord := none } }
  | none => s

/-- See `fillWord`. -/
def fillByte (s : State) : State :=
  match s.memu.pendByte with
  | some c => { writeReg s .mbr (zext8 c) with memu := { s.memu with pendByte := none } }
  | none => s

/-- R216, R217: after the C bus, the word first. -/
def fill (s : State) : State := fillByte (fillWord s)

/-- R213: the three memory signals and the registers of after phase 2 go to the staging latches. -/
def stageMem (g : MemSig) (s : State) : State :=
  { s with
    memu := { s.memu with
      fetch := g.fetch, read := g.read, write := g.write
      byteAddr := s.regs.pc, wordAddr := s.regs.mar, wordValue := s.regs.mdr } }

/-- R231, R277 item 3, D28: both staged addresses are validated before either access; the first invalid one is raised. -/
def validateStaged (s : State) : State :=
  if s.memu.fetch && !validByteAddr s.cfg s.memu.byteAddr then raise (.addressingFetch s.memu.byteAddr) s
  else if s.memu.read && !validPortAddr s.cfg s.memu.wordAddr then raise (.addressingRead s.memu.wordAddr) s
  else if s.memu.write && !validPortAddr s.cfg s.memu.wordAddr then raise (.addressingWrite s.memu.wordAddr) s
  else s

/-- The MPC calculator's output and `mpc` together (R180). -/
def steer (next : MAddr) (s : State) : State := { s with mpc := next, mpcc := { s.mpcc with out := next } }

end Sys2Proof.Machine
end

