-- ==== Sys2Proof/Machine/Flags.lean ====
section
/-! DEFINITION. The two flags: their computation from the ALU's output (40_alu.md R147), their latching into the MPC calculator
(45_tick.md R233) and the conditions of JMPN and JMPZ (42_mpc.md R180). There is no carry or overflow flag (R27). -/

namespace Sys2Proof.Machine

/-- R147: `N = out[31]`. -/
def negativeFlag (out : Word) : Bool := out.getLsbD 31

/-- R147: `Z = (out = 0)`. -/
def zeroFlag (out : Word) : Bool := out == 0#32

/-- Phase 2 of R231: `mpcc.N <- alu.N ; mpcc.Z <- alu.Z`. -/
def latchFlags (s : State) : State := { s with mpcc := { s.mpcc with n := s.alu.n, z := s.alu.z } }

/-- R180: what JMPN and JMPZ contribute to bit 8 of the next address. -/
def jumpTaken (g : JamSig) (n z : Bool) : Bool := (g.jmpn && n) || (g.jmpz && z)

end Sys2Proof.Machine
end

