-- ==== Sys2Proof/Machine/Operands.lean ====
section
/-! DEFINITION. The operands: the A path and B path of a slice and of the word (40_alu.md R142, R143, R148, R154 to R157), the
B bus (43_buses_regfile.md R190, R191), and the byte the MPC calculator takes (42_mpc.md R187). -/

namespace Sys2Proof.Machine

/-- R142: `pa = (a & ENA) ^ INVA`, one slice. -/
def sliceA (g : AluSig) (a : Bool) : Bool := (a && g.ena) ^^ g.inva

/-- R143: `pb = b & ENB`, one slice. -/
def sliceB (g : AluSig) (b : Bool) : Bool := b && g.enb

/-- R148: `PA`, the A path as a word. -/
def pathA (g : AluSig) (a : Word) : Word :=
  (if g.ena then a else 0#32) ^^^ (if g.inva then 0xFFFFFFFF#32 else 0#32)

/-- R148: `PB`, the B path as a word. -/
def pathB (g : AluSig) (b : Word) : Word := if g.enb then b else 0#32

/-- R157: the carry-in of slice 0 as a word. -/
def carryIn (g : AluSig) : Word := if g.inc then 1#32 else 0#32

/-- R190: one source drives the B bus. -/
def driveB (v : Word) (s : State) : State := { s with alu := { s.alu with b := v } }

/-- `BSEL(B)` (R191, R409): the B-bus value a selector code gives. -/
def busB (bsel : BSel) (code : Selector) (x : RegFile) : Word :=
  match bsel.source code with
  | some r => x.get r
  | none => 0#32

/-- R187: `m = x[MBR][7:0]`. -/
def fetchedByte (s : State) : Byte := lowByte s.regs.mbr

end Sys2Proof.Machine
end

