-- ==== Sys2Proof/Machine/Alu.lean ====
section
/-! DEFINITION. The word ALU as the chain of 32 slices it is (40_alu.md R141 to R147), its closed form (R148), and the
micro-operations of groups `alu_fn` and `alu_mod`. -/

namespace Sys2Proof.Machine

/-- R144: the result bit of a slice. -/
def sliceResult (f0 f1 pa pb cin : Bool) : Bool :=
  match f0, f1 with
  | false, false => pa && pb
  | false, true => pa || pb
  | true, false => !pb
  | true, true => pa ^^ pb ^^ cin

/-- R145: the carry out of a slice, 0 outside SUM (spec decision D6). -/
def sliceCarry (f0 f1 pa pb cin : Bool) : Bool :=
  match f0, f1 with
  | true, true => (pa && pb) || (cin && (pa ^^ pb))
  | _, _ => false

/-- R146: the carry into slice `i`; into slice 0 it is INC. -/
def carryInto (g : AluSig) (a b : Word) : Nat → Bool
  | 0 => g.inc
  | i + 1 => sliceCarry g.f0 g.f1 (sliceA g (a.getLsbD i)) (sliceB g (b.getLsbD i)) (carryInto g a b i)

/-- R146: `out[i]`. -/
def aluBit (g : AluSig) (a b : Word) (i : Nat) : Bool :=
  sliceResult g.f0 g.f1 (sliceA g (a.getLsbD i)) (sliceB g (b.getLsbD i)) (carryInto g a b i)

/-- The word whose bits below `n` are `f 0, …, f (n - 1)` and whose other bits are 0. -/
def gather (f : Nat → Bool) : Nat → Word
  | 0 => 0#32
  | n + 1 => gather f n ||| (if f n then 1#32 <<< n else 0#32)

/-- The output of the word ALU (R146). -/
def aluWord (g : AluSig) (a b : Word) : Word := gather (aluBit g a b) 32

/-- The closed form of R148. That it equals `aluWord` is a claim, not a definition. -/
def aluClosedForm (g : AluSig) (a b : Word) : Word :=
  match g.f0, g.f1 with
  | false, false => pathA g a &&& pathB g b
  | false, true => pathA g a ||| pathB g b
  | true, false => ~~~ (pathB g b)
  | true, true => pathA g a + pathB g b + carryIn g

/-- Drive F0 and F1 and run the unit: `alu.out`, `alu.N`, `alu.Z` (R140, R147). -/
def runAlu (f0 f1 : Bool) (s : State) : State :=
  let g := { s.alu.sig with f0 := f0, f1 := f1 }
  let out := aluWord g s.alu.a s.alu.b
  { s with alu := { s.alu with sig := g, out := out, n := negativeFlag out, z := zeroFlag out } }

/-- The state with the ALU's control lines changed. -/
def setLines (g : AluSig) (s : State) : State := { s with alu := { s.alu with sig := g } }

/-- ALU.AND (R150): `out <- PA & PB`, N, Z. -/
def execAluAnd (s : State) : Result := .next (runAlu false false s)

/-- ALU.OR (R151): `out <- PA | PB`, N, Z. -/
def execAluOr (s : State) : Result := .next (runAlu false true s)

/-- ALU.NOTB (R152): `out <- ~PB`, N, Z. -/
def execAluNotb (s : State) : Result := .next (runAlu true false s)

/-- ALU.SUM (R153): `out <- PA + PB + INC` by the carry chain, N, Z. -/
def execAluSum (s : State) : Result := .next (runAlu true true s)

/-- ENA (R154): the A operand is let through; without it the A path is 0. -/
def execEna (s : State) : Result := .next (setLines { s.alu.sig with ena := true } s)

/-- ENB (R155): the B operand is let through; without it the B path is 0. -/
def execEnb (s : State) : Result := .next (setLines { s.alu.sig with enb := true } s)

/-- INVA (R156): the enabled A operand is complemented, after the enable. -/
def execInva (s : State) : Result := .next (setLines { s.alu.sig with inva := true } s)

/-- INC (R157): the carry-in of slice 0 is 1. -/
def execInc (s : State) : Result := .next (setLines { s.alu.sig with inc := true } s)

end Sys2Proof.Machine
end

