-- ==== Sys2Proof/Machine/BBus.lean ====
section
/-! DEFINITION. The micro-operations of group `b_sel` (43_buses_regfile.md R400 to R409): the source selected drives the ALU's B
operand; the seven unassigned codes put 0 there. -/

namespace Sys2Proof.Machine

/-- B.MDR (R400): `B <- x[MDR]`. -/
def execBMdr (s : State) : Result := .next (driveB s.regs.mdr s)

/-- B.PC (R401): `B <- x[PC]`. -/
def execBPc (s : State) : Result := .next (driveB s.regs.pc s)

/-- B.MBR (R402): `B <- x[MBR]`. -/
def execBMbr (s : State) : Result := .next (driveB s.regs.mbr s)

/-- B.MBRU (R403): `B <- x[MBRU]`. -/
def execBMbru (s : State) : Result := .next (driveB s.regs.mbru s)

/-- B.SP (R404): `B <- x[SP]`. -/
def execBSp (s : State) : Result := .next (driveB s.regs.sp s)

/-- B.LV (R405): `B <- x[LV]`. -/
def execBLv (s : State) : Result := .next (driveB s.regs.lv s)

/-- B.CPP (R406): `B <- x[CPP]`. -/
def execBCpp (s : State) : Result := .next (driveB s.regs.cpp s)

/-- B.TOS (R407): `B <- x[TOS]`. -/
def execBTos (s : State) : Result := .next (driveB s.regs.tos s)

/-- B.OPC (R408): `B <- x[OPC]`. -/
def execBOpc (s : State) : Result := .next (driveB s.regs.opc s)

/-- B.NONE9 (R409): `B <- 0`. -/
def execBNone9 (s : State) : Result := .next (driveB 0#32 s)

/-- B.NONE10 (R409): `B <- 0`. -/
def execBNone10 (s : State) : Result := .next (driveB 0#32 s)

/-- B.NONE11 (R409): `B <- 0`. -/
def execBNone11 (s : State) : Result := .next (driveB 0#32 s)

/-- B.NONE12 (R409): `B <- 0`. -/
def execBNone12 (s : State) : Result := .next (driveB 0#32 s)

/-- B.NONE13 (R409): `B <- 0`. -/
def execBNone13 (s : State) : Result := .next (driveB 0#32 s)

/-- B.NONE14 (R409): `B <- 0`. -/
def execBNone14 (s : State) : Result := .next (driveB 0#32 s)

/-- B.NONE15 (R409): `B <- 0`. -/
def execBNone15 (s : State) : Result := .next (driveB 0#32 s)

end Sys2Proof.Machine
end

