-- ==== Sys2Proof/Machine/CBus.lean ====
section
/-! DEFINITION. The micro-operations of group `c_bus` (43_buses_regfile.md R420 to R428): the register named takes the shifter's
output of the same tick. -/

namespace Sys2Proof.Machine

/-- C.H (R420): `x[H] <- sh.out`. -/
def execCH (s : State) : Result := .next (writeReg s .h s.shOut)

/-- C.OPC (R421): `x[OPC] <- sh.out`. -/
def execCOpc (s : State) : Result := .next (writeReg s .opc s.shOut)

/-- C.TOS (R422): `x[TOS] <- sh.out`. -/
def execCTos (s : State) : Result := .next (writeReg s .tos s.shOut)

/-- C.CPP (R423): `x[CPP] <- sh.out`. -/
def execCCpp (s : State) : Result := .next (writeReg s .cpp s.shOut)

/-- C.LV (R424): `x[LV] <- sh.out`. -/
def execCLv (s : State) : Result := .next (writeReg s .lv s.shOut)

/-- C.SP (R425): `x[SP] <- sh.out`. -/
def execCSp (s : State) : Result := .next (writeReg s .sp s.shOut)

/-- C.PC (R426): `x[PC] <- sh.out`. -/
def execCPc (s : State) : Result := .next (writeReg s .pc s.shOut)

/-- C.MDR (R427): `x[MDR] <- sh.out`. -/
def execCMdr (s : State) : Result := .next (writeReg s .mdr s.shOut)

/-- C.MAR (R428): `x[MAR] <- sh.out`. -/
def execCMar (s : State) : Result := .next (writeReg s .mar s.shOut)

end Sys2Proof.Machine
end

