-- ==== Sys2Proof/Machine/MemOps.lean ====
section
/-! DEFINITION. The micro-operations of group `mem` (44_memops.md R210 to R215). Each stages its own signal and operand (R213)
and then applies the access; what it finds in the registers is what phase 2 has left there. -/

namespace Sys2Proof.Machine

/-- The access of FETCH at the staged byte address (R210). -/
def applyFetch (s : State) : Result :=
  let b := s.memu.byteAddr
  if validByteAddr s.cfg b then
    .next { s with memu := { s.memu with pendByte := some (readByte s.mem b.toNat) }, lastMacroAddr := some b }
  else .next (raise (.addressingFetch b) s)

/-- The access of READ at the staged word address (R211): the I/O port first (R75, R77, R78), then memory. -/
def applyRead (s : State) : Result :=
  let w := s.memu.wordAddr
  if w = s.cfg.ioAddr then
    match nextInput s.input with
    | none => .fault .awaitingInput
    | some (c, rest) => .next { s with memu := { s.memu with pendWord := some (zext8 c) }, input := rest }
  else if validWordAddr s.cfg w then
    .next { s with memu := { s.memu with pendWord := some (readWord s.mem w.toNat) } }
  else .next (raise (.addressingRead w) s)

/-- The access of WRITE at the staged word address (R212): the I/O port first (R75, R76), then memory. -/
def applyWrite (s : State) : Result :=
  let w := s.memu.wordAddr
  if w = s.cfg.ioAddr then .next { s with output := s.output ++ [lowByte s.memu.wordValue] }
  else if validWordAddr s.cfg w then .next { s with mem := writeWord s.mem w.toNat s.memu.wordValue }
  else .next (raise (.addressingWrite w) s)

/-- FETCH (R210): the byte at `x[PC]` goes to `pend_byte`. -/
def execFetch (s : State) : Result :=
  applyFetch { s with memu := { s.memu with fetch := true, byteAddr := s.regs.pc } }

/-- READ (R211): the word at `x[MAR]` goes to `pend_word`. -/
def execRead (s : State) : Result :=
  applyRead { s with memu := { s.memu with read := true, wordAddr := s.regs.mar } }

/-- WRITE (R212): the word at `x[MAR]` becomes `x[MDR]`. -/
def execWrite (s : State) : Result :=
  applyWrite { s with memu := { s.memu with write := true, wordAddr := s.regs.mar, wordValue := s.regs.mdr } }

/-- MEM.ILLEGAL (R214): `raise IllegalSignalConfiguration(mpc, mir)`. -/
def execMemIllegal (s : State) : Result := .next (raise (.illegalReadWrite s.mpc s.mir) s)

/-- R215: FETCH and WRITE together, the written word containing the fetched byte. -/
def isRace (g : MemSig) (s : State) : Bool :=
  g.fetch && g.write && decide (s.regs.pc.toNat / 4 = s.regs.mar.toNat)

/-- The order of the accesses of one tick. They are independent (R82) but in the race of R215, where the free value of the
current draw says whether the byte is fetched before the write or after it (log 4). -/
def accessOrder (g : MemSig) (s : State) : List Instr :=
  if isRace g s && Config.raceSeesNewByte s.draws then [.write, .fetch] else g.accessRows

/-- A race uses one draw. -/
def countDraw (g : MemSig) (s : State) : State := if isRace g s then { s with draws := s.draws + 1 } else s

end Sys2Proof.Machine
end

