-- ==== Sys2Proof/Machine/MpcCalc.lean ====
section
/-! DEFINITION. The MPC calculator (42_mpc.md): NEXT puts `Addr` into the next address, and each jump signal then does to it what
its rule says; `nextAddress` is the whole formula of R180 as one function. -/

namespace Sys2Proof.Machine

/-- R182: the fetched byte ORed into bits 7:0; bit 8 is not affected. -/
def orByte (next : MAddr) (m : Byte) : MAddr := next ||| m.setWidth 9

/-- R183, R184: bit 8 set when the condition holds. -/
def setBit8 (taken : Bool) (next : MAddr) : MAddr := if taken then next ||| 0x100#9 else next

/-- R180 in full. -/
def nextAddress (addr : MAddr) (g : JamSig) (m : Byte) (n z : Bool) : MAddr :=
  setBit8 (jumpTaken g n z) (if g.jmpc then orByte addr m else addr)

/-- NEXT (R181): `prev_mpc <- mpc`, `mpc <- Addr`. -/
def execNextAddr (addr : MAddr) (s : State) : Result := .next (steer addr { s with prevMpc := s.mpc })

/-- JMPC (R182): `next[7:0] <- next[7:0] | x[MBR][7:0]`. -/
def execJmpc (s : State) : Result := .next (steer (orByte s.mpc (fetchedByte s)) s)

/-- JMPN (R183): `if N then next[8] <- 1`. -/
def execJmpn (s : State) : Result := .next (steer (setBit8 s.mpcc.n s.mpc) s)

/-- JMPZ (R184): `if Z then next[8] <- 1`. -/
def execJmpz (s : State) : Result := .next (steer (setBit8 s.mpcc.z s.mpc) s)

end Sys2Proof.Machine
end

