-- ==== Sys2Proof/Machine/Shifter.lean ====
section
/-! DEFINITION. The shifter (41_shifter.md) and the micro-operations of group `shift`. It takes `alu.out` and leaves the flags
alone (R170, R175). -/

namespace Sys2Proof.Machine

/-- R172: shift left logical by `SLL_AMOUNT` = 8. -/
def shiftLeft8 (v : Word) : Word := v <<< 8

/-- R173: shift right arithmetic by `SRA_AMOUNT` = 1. -/
def shiftRight1 (v : Word) : Word := v.sshiftRight 1

/-- The shifter as a function of its input and signals, where it has an output (R171 to R173); the illegal pair (R174) gives
none and raises before this is used. -/
def shifted (g : ShSig) (v : Word) : Word :=
  if g.sll8 then shiftLeft8 v else if g.sra1 then shiftRight1 v else v

/-- The shifter's output, which is the C bus. -/
def driveC (v : Word) (s : State) : State := { s with shOut := v }

/-- SH.PASS (R171). -/
def execShPass (s : State) : Result := .next (driveC s.alu.out s)

/-- SLL8 (R172). -/
def execSll8 (s : State) : Result := .next (driveC (shiftLeft8 s.alu.out) s)

/-- SRA1 (R173). -/
def execSra1 (s : State) : Result := .next (driveC (shiftRight1 s.alu.out) s)

/-- SH.ILLEGAL (R174): `raise IllegalSignalConfiguration(mpc, mir)`. -/
def execShIllegal (s : State) : Result := .next (raise (.illegalShifter s.mpc s.mir) s)

end Sys2Proof.Machine
end

