-- ==== Sys2Proof/Machine/Dispatch.lean ====
section
/-! DEFINITION. One arm for each row of spec/opcode_table.json. -/

namespace Sys2Proof.Machine

def exec (i : Instr) (s : State) : Host.Outcome State Fault Refusal :=
  match i with
  | .aluAnd => Sys2Proof.Machine.execAluAnd s
  | .aluOr => Sys2Proof.Machine.execAluOr s
  | .aluNotb => Sys2Proof.Machine.execAluNotb s
  | .aluSum => Sys2Proof.Machine.execAluSum s
  | .ena => Sys2Proof.Machine.execEna s
  | .enb => Sys2Proof.Machine.execEnb s
  | .inva => Sys2Proof.Machine.execInva s
  | .inc => Sys2Proof.Machine.execInc s
  | .shPass => Sys2Proof.Machine.execShPass s
  | .sll8 => Sys2Proof.Machine.execSll8 s
  | .sra1 => Sys2Proof.Machine.execSra1 s
  | .shIllegal => Sys2Proof.Machine.execShIllegal s
  | .cH => Sys2Proof.Machine.execCH s
  | .cOpc => Sys2Proof.Machine.execCOpc s
  | .cTos => Sys2Proof.Machine.execCTos s
  | .cCpp => Sys2Proof.Machine.execCCpp s
  | .cLv => Sys2Proof.Machine.execCLv s
  | .cSp => Sys2Proof.Machine.execCSp s
  | .cPc => Sys2Proof.Machine.execCPc s
  | .cMdr => Sys2Proof.Machine.execCMdr s
  | .cMar => Sys2Proof.Machine.execCMar s
  | .bMdr => Sys2Proof.Machine.execBMdr s
  | .bPc => Sys2Proof.Machine.execBPc s
  | .bMbr => Sys2Proof.Machine.execBMbr s
  | .bMbru => Sys2Proof.Machine.execBMbru s
  | .bSp => Sys2Proof.Machine.execBSp s
  | .bLv => Sys2Proof.Machine.execBLv s
  | .bCpp => Sys2Proof.Machine.execBCpp s
  | .bTos => Sys2Proof.Machine.execBTos s
  | .bOpc => Sys2Proof.Machine.execBOpc s
  | .bNone9 => Sys2Proof.Machine.execBNone9 s
  | .bNone10 => Sys2Proof.Machine.execBNone10 s
  | .bNone11 => Sys2Proof.Machine.execBNone11 s
  | .bNone12 => Sys2Proof.Machine.execBNone12 s
  | .bNone13 => Sys2Proof.Machine.execBNone13 s
  | .bNone14 => Sys2Proof.Machine.execBNone14 s
  | .bNone15 => Sys2Proof.Machine.execBNone15 s
  | .fetch => Sys2Proof.Machine.execFetch s
  | .read => Sys2Proof.Machine.execRead s
  | .write => Sys2Proof.Machine.execWrite s
  | .memIllegal => Sys2Proof.Machine.execMemIllegal s
  | .jmpc => Sys2Proof.Machine.execJmpc s
  | .jmpn => Sys2Proof.Machine.execJmpn s
  | .jmpz => Sys2Proof.Machine.execJmpz s
  | .nextAddr addr => Sys2Proof.Machine.execNextAddr addr s

end Sys2Proof.Machine
end

