-- ==== Sys2Proof/Machine/Tick.lean ====
section
/-! DEFINITION. The tick (45_tick.md R231): the three ordered phases that perform the micro-operations a microinstruction
selects, and halt detection (R236, R237). -/

namespace Sys2Proof.Machine

/-- The micro-operations of a list in order, cut at a raise (R231). -/
def runOps : List Instr → State → Result
  | [], s => .next s
  | i :: is, s => andThen (exec i s) (runOps is)

/-- R237 (spec decision D14): every signal of the ALU, shifter, C, memory and jump groups is 0. -/
def isNopOrHalt (mi : MicroInstr) : Bool :=
  mi.alu == MicroInstr.blank.alu && mi.sh == MicroInstr.blank.sh && mi.c == MicroInstr.blank.c &&
  mi.mem == MicroInstr.blank.mem && mi.jam == MicroInstr.blank.jam

/-- R236, R237: whether the microinstruction just executed is terminal. -/
def isTerminal (mi : MicroInstr) (s : State) : Bool :=
  (isNopOrHalt mi && s.mpc == s.prevMpc) || (currentSlot s).isNone

/-- The end of phase 3 (R231): `halted`, the tick count, the `tick_done` notification (R292). -/
def finishTick (mi : MicroInstr) (s : State) : State :=
  { s with halted := isTerminal mi s, ticks := s.ticks + 1, tickDone := some (mi, mi.mem.fetch) }

/-- Phase 1 (R232): fetch and compute. -/
def phase1 (mi : MicroInstr) (s : State) : Result := runOps (mi.computeOps s.cfg.bsel) (beginTick mi s)

/-- Phase 2 (R233): C bus, flags, fill, in that order. -/
def phase2 (mi : MicroInstr) (s : State) : Result := andThen (runOps mi.writeOps s) (fun t => .next (fill (latchFlags t)))

/-- The memory operation of phase 3 (R213, R214, R215, R277): stage, refuse the illegal pair, validate, access. -/
def memoryPhase (mi : MicroInstr) (s : State) : Result :=
  andThen (runOps mi.mem.illegalRows (stageMem mi.mem s)) fun t =>
    andThen (.next (validateStaged t)) fun u => runOps (accessOrder mi.mem u) (countDraw mi.mem u)

/-- Phase 3 (R234): memory, then the next address, then the bookkeeping at the end of the tick. -/
def phase3 (mi : MicroInstr) (s : State) : Result :=
  andThen (memoryPhase mi s) fun t => andThen (runOps mi.nextOps t) fun u => .next (finishTick mi u)

/-- One tick of the microinstruction `mi` (R231). -/
def tick (mi : MicroInstr) (s : State) : Result :=
  andThen (phase1 mi s) fun t => andThen (phase2 mi t) (phase3 mi)

/-- R239: no microinstruction at `mpc`, hence no tick; the machine is halted and nothing else changes. -/
def haltAtEmptySlot (s : State) : State := { s with halted := true }

end Sys2Proof.Machine
end

