-- ==== Sys2Proof/Machine/Step.lean ====
section
/-! DEFINITION. One step of the machine, which is the host operation `tick()` (45_tick.md R240), and the placing of one control
word where the next step fetches. -/

namespace Sys2Proof.Machine

/-- `tick()` (R240): refused with the recorded fault when `fault` is set, R239 at an empty slot, R231 otherwise. -/
def step (s : State) : Host.Outcome State Fault Refusal :=
  match s.fault with
  | some f => .fault (.reported f)
  | none =>
    match currentSlot s with
    | none => .next (haltAtEmptySlot s)
    | some mi => tick mi s

/-- `s` with the control word that `nbits` and `w` write in the control-store slot `mpc` names, where the next step fetches it,
and with no fault set, since a faulted core does not fetch (log 11). -/
def State.withFetchWord (s : State) (nbits w : Nat) : State :=
  match decodeTableMicro nbits w with
  | some mi => { s with cs := placeSlot s.cs s.mpc mi, fault := none }
  | none => s

end Sys2Proof.Machine
end

