-- ==== Sys2Proof/Machine/Shorthand.lean ====
section
/-! DEFINITION. The spec's own shorthands for microinstructions (30_encoding.md R130 to R132, 40_alu.md R158): the 16 named ALU
settings with the values they stand for, `nop` and `halt`. Nothing in the machine depends on them. -/

namespace Sys2Proof.Machine

/-- The 16 names of R131. -/
inductive AluName where
  | a | b | notA | notB | aPlusB | aPlusBPlus1 | aPlus1 | bPlus1 | bMinusA | bMinus1 | negA | aAndB | aOrB | zero | one | minusOne
  deriving DecidableEq, Repr

/-- R131: the signals a name expands to. -/
def AluName.signals : AluName → AluSig
  | .a => { f0 := false, f1 := true, ena := true, enb := false, inva := false, inc := false }
  | .b => { f0 := false, f1 := true, ena := false, enb := true, inva := false, inc := false }
  | .notA => { f0 := false, f1 := true, ena := true, enb := false, inva := true, inc := false }
  | .notB => { f0 := true, f1 := false, ena := true, enb := true, inva := false, inc := false }
  | .aPlusB => { f0 := true, f1 := true, ena := true, enb := true, inva := false, inc := false }
  | .aPlusBPlus1 => { f0 := true, f1 := true, ena := true, enb := true, inva := false, inc := true }
  | .aPlus1 => { f0 := true, f1 := true, ena := true, enb := false, inva := false, inc := true }
  | .bPlus1 => { f0 := true, f1 := true, ena := false, enb := true, inva := false, inc := true }
  | .bMinusA => { f0 := true, f1 := true, ena := true, enb := true, inva := true, inc := true }
  | .bMinus1 => { f0 := true, f1 := true, ena := false, enb := true, inva := true, inc := false }
  | .negA => { f0 := true, f1 := true, ena := true, enb := false, inva := true, inc := true }
  | .aAndB => { f0 := false, f1 := false, ena := true, enb := true, inva := false, inc := false }
  | .aOrB => { f0 := false, f1 := true, ena := true, enb := true, inva := false, inc := false }
  | .zero => { f0 := false, f1 := true, ena := false, enb := false, inva := false, inc := false }
  | .one => { f0 := true, f1 := true, ena := false, enb := false, inva := false, inc := true }
  | .minusOne => { f0 := true, f1 := true, ena := false, enb := false, inva := true, inc := false }

/-- R131: the expression a name stands for. -/
def AluName.value (x y : Word) : AluName → Word
  | .a => x
  | .b => y
  | .notA => ~~~x
  | .notB => ~~~y
  | .aPlusB => x + y
  | .aPlusBPlus1 => x + y + 1#32
  | .aPlus1 => x + 1#32
  | .bPlus1 => y + 1#32
  | .bMinusA => y - x
  | .bMinus1 => y - 1#32
  | .negA => -x
  | .aAndB => x &&& y
  | .aOrB => x ||| y
  | .zero => 0#32
  | .one => 1#32
  | .minusOne => 0xFFFFFFFF#32

/-- R132: `nop next=<addr>`, with `b=none` written as selector 9 (R130). -/
def nop (addr : MAddr) : MicroInstr := { MicroInstr.blank with b := 9#4, addr := addr }

/-- R132: `halt` in slot `s` is `nop next=s`. -/
def haltWord (slot : MAddr) : MicroInstr := nop slot

end Sys2Proof.Machine
end

