-- ==== Sys2Proof/Machine/ClosedForm.lean ====
section
/-! DEFINITION. A whole tick as one formula over the state before it, written from the rules of the units and not from the
micro-operations: what the ALU, the shifter, the register file, the MPC calculator and the memory are afterwards (40 R148, 41
R171 to R173, 43 R194, 44 R216, 42 R180, 44 R210 to R215), and when the tick faults (60 R277) or is stuck (20 R78). The machine
does not use it; claims compare the machine with it. -/

namespace Sys2Proof.Machine

/-- `alu.out` of the tick (R148), with H as A and the selected source as B (R190, R192). -/
def aluOutOf (mi : MicroInstr) (s : State) : Word := aluClosedForm mi.alu s.regs.h (busB s.cfg.bsel mi.b s.regs)

/-- The C bus of the tick, for a legal shifter pair (R171 to R173). -/
def cBusOf (mi : MicroInstr) (s : State) : Word := shifted mi.sh (aluOutOf mi s)

/-- The loop of R194. -/
def writeC (g : CSet) (v : Word) (x : RegFile) : RegFile where
  mar := if g.mar then v else x.mar
  mdr := if g.mdr then v else x.mdr
  pc := if g.pc then v else x.pc
  mbr := x.mbr
  mbru := x.mbru
  sp := if g.sp then v else x.sp
  lv := if g.lv then v else x.lv
  cpp := if g.cpp then v else x.cpp
  tos := if g.tos then v else x.tos
  opc := if g.opc then v else x.opc
  h := if g.h then v else x.h

/-- R216: what the pending results do to the register file. -/
def deliver (word : Option Word) (byte : Option Byte) (x : RegFile) : RegFile :=
  { x with
    mdr := word.getD x.mdr
    mbr := (byte.map sext8).getD x.mbr
    mbru := (byte.map zext8).getD x.mbru }

/-- The register file after phase 2, which no later phase changes (R217: the fill comes after the C bus). -/
def regsAfter (mi : MicroInstr) (s : State) : RegFile :=
  deliver s.memu.pendWord s.memu.pendByte (writeC mi.c (cBusOf mi s) s.regs)

/-- The next address (R180, with the flags and the MBR of R187). -/
def nextOf (mi : MicroInstr) (s : State) : MAddr :=
  nextAddress mi.addr mi.jam (lowByte (regsAfter mi s).mbr) (negativeFlag (aluOutOf mi s)) (zeroFlag (aluOutOf mi s))

/-- The fault the tick raises, if any: the first in the order of R277. -/
def tickFault (mi : MicroInstr) (s : State) : Option FaultRecord :=
  let x := regsAfter mi s
  if mi.sh.sll8 && mi.sh.sra1 then some (.illegalShifter s.mpc (some mi))
  else if mi.mem.read && mi.mem.write then some (.illegalReadWrite s.mpc (some mi))
  else if mi.mem.fetch && !decide (x.pc.toNat < 4 * s.cfg.memWords) then some (.addressingFetch x.pc)
  else if mi.mem.read && !(decide (x.mar = s.cfg.ioAddr) || decide (x.mar.toNat < s.cfg.memWords)) then
    some (.addressingRead x.mar)
  else if mi.mem.write && !(decide (x.mar = s.cfg.ioAddr) || decide (x.mar.toNat < s.cfg.memWords)) then
    some (.addressingWrite x.mar)
  else none

/-- R78: the tick would READ at the I/O port with no input. -/
def tickStuck (mi : MicroInstr) (s : State) : Bool :=
  mi.mem.read && decide ((regsAfter mi s).mar = s.cfg.ioAddr) && (nextInput s.input).isNone

/-- Main memory after the tick (R212). -/
def memAfter (mi : MicroInstr) (s : State) : Memory :=
  let x := regsAfter mi s
  if mi.mem.write && !decide (x.mar = s.cfg.ioAddr) then writeWord s.mem x.mar.toNat x.mdr else s.mem

/-- `output` after the tick (R76). -/
def outputAfter (mi : MicroInstr) (s : State) : List Byte :=
  let x := regsAfter mi s
  if mi.mem.write && decide (x.mar = s.cfg.ioAddr) then s.output ++ [lowByte x.mdr] else s.output

/-- `input` after the tick (R77). -/
def inputAfter (mi : MicroInstr) (s : State) : InputSeq :=
  if mi.mem.read && decide ((regsAfter mi s).mar = s.cfg.ioAddr) then ((nextInput s.input).map (·.2)).getD s.input else s.input

/-- `pend_word` after the tick (R211, R218). -/
def pendWordAfter (mi : MicroInstr) (s : State) : Option Word :=
  let x := regsAfter mi s
  if mi.mem.read then
    if x.mar = s.cfg.ioAddr then (nextInput s.input).map (fun x => zext8 x.1) else some (readWord s.mem x.mar.toNat)
  else none

/-- Whether FETCH and WRITE race in the tick (R215). -/
def tickRaces (mi : MicroInstr) (s : State) : Bool :=
  mi.mem.fetch && mi.mem.write && decide ((regsAfter mi s).pc.toNat / 4 = (regsAfter mi s).mar.toNat)

/-- `pend_byte` after the tick (R210, R218); in a race the byte after the write or the byte before it, by the free value
(R215). -/
def pendByteAfter (mi : MicroInstr) (s : State) : Option Byte :=
  let x := regsAfter mi s
  if mi.mem.fetch then
    if tickRaces mi s && Config.raceSeesNewByte s.draws then some (readByte (memAfter mi s) x.pc.toNat)
    else some (readByte s.mem x.pc.toNat)
  else none

/-- The state after a tick that neither faults nor is stuck (R231). -/
def tickState (mi : MicroInstr) (s : State) : State :=
  let x := regsAfter mi s
  let out := aluOutOf mi s
  { s with
    regs := x
    mpc := nextOf mi s
    prevMpc := s.mpc
    mir := some mi
    ticks := s.ticks + 1
    lastMacroAddr := if mi.mem.fetch then some x.pc else s.lastMacroAddr
    halted := (isNopOrHalt mi && nextOf mi s == s.mpc) || (slotAt s.cs (nextOf mi s)).isNone
    alu := { a := s.regs.h, b := busB s.cfg.bsel mi.b s.regs, sig := mi.alu, out := out, n := negativeFlag out, z := zeroFlag out }
    shOut := cBusOf mi s
    mpcc := { n := negativeFlag out, z := zeroFlag out, out := nextOf mi s }
    memu := { fetch := mi.mem.fetch, read := mi.mem.read, write := mi.mem.write, byteAddr := x.pc, wordAddr := x.mar,
              wordValue := x.mdr, pendWord := pendWordAfter mi s, pendByte := pendByteAfter mi s }
    mem := memAfter mi s
    output := outputAfter mi s
    input := inputAfter mi s
    tickDone := some (mi, mi.mem.fetch)
    draws := if tickRaces mi s then s.draws + 1 else s.draws }

end Sys2Proof.Machine
end

