-- ==== Sys2Proof/Machine/Controller.lean ====
section
/-! DEFINITION. The debug controller (60_exceptions.md R290 to R301): matching, the continue/halt decision, and the host's
requests on the breakpoint list. No tick reads any of it (R302, C3). -/

namespace Sys2Proof.Machine

/-- R294 to R296: whether a breakpoint matches when `can_continue` is consulted. -/
def breakpointMatches (s : State) (nextMicro : MAddr) (nextMacro : Option Word) : BreakpointKind → Bool
  | .register r v => s.regs.get r == v
  | .microLine a => nextMicro == a
  | .macroLine a => nextMicro == s.cfg.main1Addr && nextMacro == some a

/-- `can_continue(next_micro_line, next_macro_line)` (R291): false when any registered breakpoint matches. -/
def canContinueAt (s : State) (nextMicro : MAddr) (nextMacro : Option Word) : Bool :=
  s.breakpoints.all (fun b => !breakpointMatches s nextMicro nextMacro b.kind)

/-- The arguments the engine passes (R291, D29): `mpc` and `last_macro_addr`. -/
def canContinue (s : State) : Bool := canContinueAt s s.mpc s.lastMacroAddr

/-- A request to add a breakpoint, arguments unchecked (R276, R298; log 18). -/
inductive BreakpointRequest where
  | register (r : Option Reg) (v : Nat)
  | microLine (a : Nat)
  | macroLine (a : Nat)
  deriving DecidableEq, Repr

/-- The breakpoint a request with valid arguments asks for (R276, R298). A register's value is any 32-bit one (R294) and a micro
line is at most 511 (R298). DESIGN CHOICE (log 18): which macro lines are out of range the spec does not say; here those of 2^32
and above, so that an address outside memory is accepted and never matches. -/
def BreakpointRequest.kind : BreakpointRequest → Option BreakpointKind
  | .register none _ => none
  | .register (some r) v => if v < 2 ^ 32 then some (.register r (BitVec.ofNat 32 v)) else none
  | .microLine a => if a < csSlots then some (.microLine (BitVec.ofNat 9 a)) else none
  | .macroLine a => if a < 2 ^ 32 then some (.macroLine (BitVec.ofNat 32 a)) else none

/-- `add` (R293, R298): appended with the next id; a duplicate or an invalid request is a no-op. -/
def addBreakpoint (q : BreakpointRequest) (s : State) : State :=
  match q.kind with
  | none => s
  | some k =>
    if s.breakpoints.any (fun b => b.kind == k) then s
    else
      { s with
        breakpoints := s.breakpoints ++ [⟨s.nextBreakpointId, k⟩]
        nextBreakpointId := s.nextBreakpointId + 1 }

/-- `remove` (R299): by id; an unknown id changes nothing. -/
def removeBreakpoint (id : Nat) (s : State) : State :=
  { s with breakpoints := s.breakpoints.filter (fun b => b.id != id) }

/-- `list` (R300): insertion order. -/
def listBreakpoints (s : State) : List Breakpoint := s.breakpoints

end Sys2Proof.Machine
end

