-- ==== Sys2Proof/Machine/HostOps.lean ====
section
/-! DEFINITION. What the host can do between ticks: register and memory access (43 R197, 20 R80, 30 R118), more input (20 R78),
and the stepping calls built on the tick (45_tick.md R238, R240 to R243, R246). -/

namespace Sys2Proof.Machine

/-- The kinds of access R272 records. -/
inductive AccessKind where
  | fetch | read | write
  deriving DecidableEq, Repr

/-- `Addressing.Host` with the kind of access and the offending address (R272, R275): the request is rejected and the core is as it
was (R279). -/
inductive HostError where
  | addressingHost (kind : AccessKind) (addr : Word)
  deriving DecidableEq, Repr

/-- `get(register)` (R197). -/
def hostGetReg (r : Reg) (s : State) : Word := s.regs.get r

/-- `set(register, i32)` (R197), by the register write of R196. -/
def hostSetReg (r : Reg) (v : Word) (s : State) : State := writeReg s r v

/-- `read_word(addr)` (R80): memory only, never the I/O port. -/
def hostReadWord (addr : Word) (s : State) : Except HostError Word :=
  if validWordAddr s.cfg addr then .ok (readWord s.mem addr.toNat) else .error (.addressingHost .read addr)

/-- `write_word(addr, value)` (R80). -/
def hostWriteWord (addr : Word) (v : Word) (s : State) : Except HostError State :=
  if validWordAddr s.cfg addr then .ok { s with mem := writeWord s.mem addr.toNat v } else .error (.addressingHost .write addr)

/-- `get(address)` of the control store (R118). DESIGN CHOICE (log 25): the kind it records for an address above 511 is a read. -/
def hostGetSlot (addr : Word) (s : State) : Except HostError (Option MicroInstr) :=
  if addr.toNat < csSlots then .ok (slotAt s.cs (addr.setWidth 9)) else .error (.addressingHost .read addr)

/-- The host extends `input` (R78). -/
def hostFeedInput (bs : List Byte) (s : State) : State := { s with input := extendInput bs s.input }

/-- `is_halt_instruction()` (R238); `mir` is `none` exactly when no tick has begun since reset. -/
def isHaltInstruction (s : State) : Bool :=
  match s.mir with
  | none => (currentSlot s).isNone
  | some _ => s.halted

/-- The two causes of a halt (R236, R275). -/
inductive HaltCause where
  /-- `Halt.SelfLoop`. -/
  | selfLoop
  /-- `Halt.EmptySlot`. -/
  | emptySlot
  deriving DecidableEq, Repr

/-- Why the machine is halted, if it is. -/
def haltCause (s : State) : Option HaltCause :=
  if s.halted then (if (currentSlot s).isNone then some .emptySlot else some .selfLoop) else none

/-- How a stepping call ends (R246). Which end is named when two hold is log 23. -/
inductive CallEnd where
  | halted
  | vetoed
  | countReached
  | faulted (f : FaultRecord)
  | stuck
  /-- Not an outcome of the machine: the bound on ticks that makes `run` and `step` total here was used up (log 17). -/
  | boundReached
  deriving DecidableEq, Repr

/-- What a stepping call leaves: the state, the ticks it reports as executed and how it ended (R241, R246). -/
structure CallReport where
  state : State
  ticks : Nat
  ending : CallEnd
  deriving DecidableEq, Repr

/-- The report of a call that ends in `s`; its ticks are those counted since the call began (R30). -/
def endCall (e : CallEnd) (s : State) : CallReport := ⟨s, s.ticks, e⟩

/-- The end of a call whose count or bound is used up. DESIGN CHOICE (log 23): where the core is halted as well, R246's rows
`halted` and `count reached` both hold and the spec gives neither precedence; here the call is named halted. -/
def endUsedUp (e : CallEnd) (s : State) : CallReport := endCall (if s.halted then .halted else e) s

/-- The tests every stepping call makes before a tick, in the order of R241: a fault, a halt, the controller's veto (not before
the first tick). `none` lets the tick run. -/
def beforeTick (mayGo : State → Bool) (first : Bool) (s : State) : Option CallReport :=
  match s.fault with
  | some f => some (endCall (.faulted f) s)
  | none =>
    if s.halted || (currentSlot s).isNone then some (endCall .halted (haltAtEmptySlot s))
    else if !first && !mayGo s then some (endCall .vetoed s)
    else none

/-- The tick of a stepping call in `s` and what follows it; a tick that raises, or has no step, ends the call uncounted (R231,
R241, R246). -/
def tickThen (goOn : State → CallReport) (s : State) : CallReport :=
  match step s with
  | .next t =>
    match t.fault with
    | some f => endCall (.faulted f) t
    | none => goOn t
  | .fault (.reported f) => endCall (.faulted f) s
  | .fault .awaitingInput => endCall .stuck s
  | .refused _ => endCall .stuck s

/-- A stepping call: on a faulted core it is refused, reports the fault again and changes nothing, the tick counter included (R279,
93_implementation_defined.md U11); otherwise the counter starts at 0 (R30) and `loop` runs. -/
def steppingCall (loop : State → CallReport) (s : State) : CallReport :=
  match s.fault with
  | some f => ⟨s, 0, .faulted f⟩
  | none => loop { s with ticks := 0 }

/-- The loop of `micro_step` (R241) with `n` ticks still allowed; used up on a halted core it ends as halted (log 23). -/
def microLoop (mayGo : State → Bool) : Nat → Bool → State → CallReport
  | 0, _, s => endUsedUp .countReached s
  | n + 1, first, s =>
    match beforeTick mayGo first s with
    | some r => r
    | none => tickThen (microLoop mayGo n false) s

/-- `micro_step(n)` (R241) under a continue/halt callback. -/
def microStepWith (mayGo : State → Bool) (n : Nat) (s : State) : CallReport := steppingCall (microLoop mayGo n true) s

/-- `micro_step(n)` with the breakpoint controller. With no breakpoint registered it always continues (R290). -/
def microStep (n : Nat) (s : State) : CallReport := microStepWith canContinue n s

/-- `run()` (R243) is `micro_step` without the count; here it is cut after `bound` ticks (log 17), and cut at a halt it is halted. -/
def run (bound : Nat) (s : State) : CallReport :=
  let r := microStep bound s
  match r.ending with
  | .countReached => { r with ending := .boundReached }
  | _ => r

/-- R242: a macro boundary is crossed when `mpc` is MAIN1_ADDR and PC differs from the reference. -/
def atBoundary (entryPc : Word) (s : State) : Bool := s.mpc == s.cfg.main1Addr && s.regs.pc != entryPc

/-- The loop of `step(n)` (R242) with at most `bound` ticks and `left` boundaries still to cross; either used up on a halted core,
it ends as halted (log 23). -/
def macroLoop (mayGo : State → Bool) : Nat → Nat → Bool → Word → State → CallReport
  | _, 0, _, _, s => endUsedUp .countReached s
  | 0, _ + 1, _, _, s => endUsedUp .boundReached s
  | bound + 1, left + 1, first, entryPc, s =>
    match beforeTick mayGo first s with
    | some r => r
    | none =>
      tickThen (fun t =>
        if atBoundary entryPc t then macroLoop mayGo bound left false t.regs.pc t
        else macroLoop mayGo bound (left + 1) false entryPc t) s

/-- `step(n)` (R242) with the breakpoint controller, cut after `bound` ticks (log 17). -/
def macroStep (bound n : Nat) (s : State) : CallReport := steppingCall (macroLoop canContinue bound n true s.regs.pc) s

end Sys2Proof.Machine
end

