-- ==== Sys2Proof/WellFormed.lean ====
section
/-! DEFINITION. The checks on words, microinstructions, micro-operations and parameters. Every 36-bit word decodes (R103), so
no check stands between a word and its record; what is checked is the legality of signal pairs (R106, R107), which a tick
faults on and a loader may refuse (R110), and the constraints R8 puts on the parameters. -/

namespace Sys2Proof

/-- R106: SLL8 and SRA1 are not both set. -/
def ShSig.legal (g : ShSig) : Bool := !(g.sll8 && g.sra1)

/-- R107 (spec decision D16): READ and WRITE are not both set. -/
def MemSig.legal (g : MemSig) : Bool := !(g.read && g.write)

/-- The two checks `REJECT_ILLEGAL_AT_LOAD` makes on a word (R110). -/
def MicroInstr.legal (mi : MicroInstr) : Bool := mi.sh.legal && mi.mem.legal

/-- A micro-operation is legal when its row of the opcode table carries no `illegal` mark (R133). -/
def Instr.legal : Instr → Bool
  | .shIllegal | .memIllegal => false
  | _ => true

/-- The bit positions a layout uses, 36 of them. -/
def Layout.positions (L : Layout) : List Nat :=
  (List.range 9).map (L.addr + ·) ++
  [L.jmpc, L.jmpn, L.jmpz, L.sll8, L.sra1, L.f0, L.f1, L.ena, L.enb, L.inva, L.inc,
   L.cH, L.cOpc, L.cTos, L.cCpp, L.cLv, L.cSp, L.cPc, L.cMdr, L.cMar, L.write, L.read, L.fetch] ++
  (List.range 4).map (L.b + ·)

/-- A layout lays every bit of the record in a place of its own inside the 36-bit word (R102, R103). -/
def Layout.wf (L : Layout) : Bool := decide L.positions.Nodup && L.positions.all (· < 36)

/-- A list of byte cells below `limit`, addresses strictly rising, no byte 0 listed. -/
def cellsOk (limit : Nat) (cells : List (Nat × Byte)) : Bool :=
  decide (cells.Pairwise (fun x y => x.1 < y.1)) && cells.all (fun x => decide (x.1 < limit) && x.2 != 0#8)

/-- The constraints of R8 and R45: memory has a word, the I/O port lies outside memory, the reset PC is not a valid byte
address, 36 bits fit a record, the layout is one, there is one entry for each selector code, and MEM_INIT lies in memory. -/
def Config.wf (c : Config) : Bool :=
  decide (1 ≤ c.memWords) && decide (c.memWords ≤ c.ioAddr.toNat) && decide (4 * c.memWords ≤ c.resetPc.toNat) &&
  decide (5 ≤ c.recordBytes) && c.layout.wf && decide (c.bsel.length = 16) && cellsOk (4 * c.memWords) c.memInit

end Sys2Proof
end

