-- ==== Sys2Proof/Machine/Image.lean ====
section
/-! DEFINITION. The two binary images and construction: the microcode image (30_encoding.md R120 to R124, R110), the macro image
(20_memory.md R85 to R90) and `construct` (70_reset_and_hazards.md R313). -/

namespace Sys2Proof.Machine

/-- Which image an error speaks of (R271: the recorded information). -/
inductive ImageKind where
  | microcode | ijvm
  deriving DecidableEq, Repr

/-- The causes of FileFormatError that R271 lists. -/
inductive FormatCause where
  /-- The stream cannot be read (R271; log 19). -/
  | unreadable
  /-- Fewer than 4 bytes (R120, R86). -/
  | shortHeader
  /-- Another magic number (R120, R86). -/
  | badMagic
  /-- R123. -/
  | truncatedRecord
  /-- R124, D21. -/
  | tooManyRecords
  /-- R87: 1 to 7 bytes where a block would start. -/
  | truncatedBlockHeader
  /-- R87: fewer data bytes than the block's length. -/
  | truncatedBlockData
  /-- R89, D22. -/
  | blockOutsideMemory
  deriving DecidableEq, Repr

/-- Why no core is constructed. -/
inductive ConstructError where
  /-- FileFormatError (R271). -/
  | fileFormat (image : ImageKind) (cause : FormatCause)
  /-- IllegalSignalConfiguration at load, under REJECT_ILLEGAL_AT_LOAD (R110, R273, C12). -/
  | illegalSignals (slot : Nat) (mi : MicroInstr)
  deriving DecidableEq, Repr

/-- `IJVM_MAGIC` (R7, R86). -/
def ijvmMagic : Nat := 0x1DEADFAD

/-- R120, R86: the 4-byte big-endian magic number; answers the rest of the image. -/
def readHeader (image : ImageKind) (magic : Nat) (bs : List Byte) : Except ConstructError (List Byte) :=
  if bs.length < 4 then .error (.fileFormat image .shortHeader)
  else if beNat (bs.take 4) = magic then .ok (bs.drop 4)
  else .error (.fileFormat image .badMagic)

/-- R121 to R124: records from the head of `bs`, the first into slot `i`. `fuel` is at least the number of records. -/
def readRecords (c : Config) : Nat → Nat → List Byte → Except ConstructError ControlStore
  | 0, _, _ => .ok []
  | fuel + 1, i, bs =>
    match bs with
    | [] => .ok []
    | _ :: _ =>
      match decodeRecord c.layout c.recordBytes bs with
      | .error _ => .error (.fileFormat .microcode .truncatedRecord)
      | .ok (mi, rest) =>
        match readRecords c fuel (i + 1) rest with
        | .ok cs => .ok ((i, mi) :: cs)
        | .error e => .error e

/-- R110: the first illegal word of a control store, if any. DESIGN CHOICE (log 24): of several it is the one recorded. -/
def firstIllegal (cs : ControlStore) : Option (Nat × MicroInstr) := cs.find? (fun x => !x.2.legal)

/-- The control store a microcode image gives (R120 to R124, R110). DESIGN CHOICE (log 24): where several causes hold in one image
the spec does not say which is recorded (R271); here a truncated record (R123) goes before too many records (R124), and both
before an illegal word under REJECT_ILLEGAL_AT_LOAD (R110). -/
def loadMicrocode (c : Config) (bs : List Byte) : Except ConstructError ControlStore :=
  match readHeader .microcode c.mic1Magic.toNat bs with
  | .error e => .error e
  | .ok rest =>
    match readRecords c rest.length 0 rest with
    | .error e => .error e
    | .ok cs =>
      if cs.length > csSlots then .error (.fileFormat .microcode .tooManyRecords)
      else if c.rejectIllegalAtLoad then
        match firstIllegal cs with
        | some (slot, mi) => .error (.illegalSignals slot mi)
        | none => .ok cs
      else .ok cs

/-- R88: data byte `i` of a block goes to byte address `start + i`. -/
def storeBytes (m : Memory) (start : Nat) : List Byte → Memory
  | [] => m
  | b :: bs => storeBytes (writeByte m start b) (start + 1) bs

/-- R87 to R90: blocks from the head of `bs`, applied in image order. `fuel` is at least the number of blocks. DESIGN CHOICE (log
24): the cause recorded (R271) is that of the first bad block, and for a block that is both truncated (R87) and outside memory
(R89) it is the truncation. -/
def readBlocks (c : Config) : Nat → Memory → List Byte → Except ConstructError Memory
  | 0, m, _ => .ok m
  | fuel + 1, m, bs =>
    match bs with
    | [] => .ok m
    | _ :: _ =>
      if bs.length < 8 then .error (.fileFormat .ijvm .truncatedBlockHeader)
      else
        let start := beNat (bs.take 4)
        let len := beNat ((bs.drop 4).take 4)
        let body := bs.drop 8
        if body.length < len then .error (.fileFormat .ijvm .truncatedBlockData)
        else if 4 * c.memWords < start + len then .error (.fileFormat .ijvm .blockOutsideMemory)
        else readBlocks c fuel (storeBytes m start (body.take len)) (body.drop len)

/-- The memory a macro image gives: MEM_INIT overlaid with its blocks (R85 to R90). -/
def loadMacro (c : Config) (bs : List Byte) : Except ConstructError Memory :=
  match readHeader .ijvm ijvmMagic bs with
  | .error e => .error e
  | .ok rest => readBlocks c rest.length c.memInit rest

/-- An image as the host hands it over; `none` is a stream that cannot be read (log 19). -/
def readable (image : ImageKind) (stream : Option (List Byte)) : Except ConstructError (List Byte) :=
  match stream with
  | none => .error (.fileFormat image .unreadable)
  | some bs => .ok bs

/-- `construct(micro_image, macro_image)` (R313): the microcode image first, then the macro image, then streams, breakpoints and
reset. An error constructs nothing (R271). -/
def construct (c : Config) (micro ijvm : Option (List Byte)) : Except ConstructError State :=
  match readable .microcode micro with
  | .error e => .error e
  | .ok mb =>
    match loadMicrocode c mb with
    | .error e => .error e
    | .ok cs =>
      match readable .ijvm ijvm with
      | .error e => .error e
      | .ok jb =>
        match loadMacro c jb with
        | .error e => .error e
        | .ok m => .ok (resetMachine (State.constructed c cs m))

/-! ## Writing images -/

/-- The microcode image of the microinstructions of slots 0, 1, 2, … (R120 to R122). -/
def microImage (c : Config) (code : List MicroInstr) : List Byte :=
  beBytes 4 c.mic1Magic.toNat ++ code.flatMap (fun mi => recordOfWord c.recordBytes (encodeWord c.layout mi))

/-- One block of a macro image: start address, length, data (R87). -/
def blockBytes (x : Nat × List Byte) : List Byte := beBytes 4 x.1 ++ beBytes 4 x.2.length ++ x.2

/-- The macro image of a sequence of blocks (R86, R87). -/
def macroImage (blocks : List (Nat × List Byte)) : List Byte := beBytes 4 ijvmMagic ++ blocks.flatMap blockBytes

end Sys2Proof.Machine
end

