-- ==== Sys2Proof/Safety.lean ====
section
/-! DEFINITION. What holds of a core between ticks, what a safe step is, and what the machine has let the outside see. -/

namespace Sys2Proof.Machine

/-- Whether the microinstruction last begun had the signal (R218). -/
def lastHad (f : MemSig → Bool) (s : State) : Bool := (s.mir.map (fun mi => f mi.mem)).getD false

/-- What every state between ticks satisfies unless a host poke of MBRU breaks the MBR pair (R22, C9). -/
structure State.Inv (s : State) : Prop where
  /-- The parameters meet the constraints of R8. -/
  cfg : s.cfg.wf = true
  /-- Memory is in canonical form and inside the address space (R61, R69). -/
  mem : cellsOk (4 * s.cfg.memWords) s.mem = true
  /-- The control store is in canonical form and inside its 512 slots (R36). -/
  cs : s.cs.wf = true
  /-- MBR is a sign-extended byte (R22). -/
  mbr : s.regs.mbr = sext8 (lowByte s.regs.mbr)
  /-- `x[MBRU] = x[MBR] & 0xFF` (R22). -/
  mbru : s.regs.mbru = s.regs.mbr &&& 0xFF#32
  /-- R218: `pend_word` is `some` exactly when the last executed microinstruction had READ. -/
  pendWord : s.fault = none → s.memu.pendWord.isSome = lastHad MemSig.read s
  /-- R218: `pend_byte` is `some` exactly when the last executed microinstruction had FETCH. -/
  pendByte : s.fault = none → s.memu.pendByte.isSome = lastHad MemSig.fetch s
  /-- R185: N and Z are never both 1. -/
  flags : (s.alu.n && s.alu.z) = false
  /-- R180: `mpcc.out` and `mpc` are one value. -/
  steered : s.mpcc.out = s.mpc
  /-- R236, R237, R239: a halted core stands at an empty slot or at a no-op that names its own slot. -/
  halted : s.halted = true → currentSlot s = none ∨ ∃ mi, currentSlot s = some mi ∧ isNopOrHalt mi = true ∧ mi.addr = s.mpc

/-- A step that completes without raising a fault. -/
def StepsSafely (s : State) : Prop := ∃ t, step s = .next t ∧ t.fault = none

/-- The state after `k` steps, as far as there are that many. -/
def afterSteps : Nat → State → State
  | 0, s => s
  | k + 1, s =>
    match step s with
    | .next t => afterSteps k t
    | .fault _ => s
    | .refused _ => s

/-- How many macro boundaries (R242) the next `k` steps cross, the reference PC being `entryPc` and taken anew at each. -/
def boundariesIn : Nat → Word → State → Nat
  | 0, _, _ => 0
  | k + 1, entryPc, s =>
    match step s with
    | .next t => if atBoundary entryPc t then boundariesIn k t.regs.pc t + 1 else boundariesIn k entryPc t
    | .fault _ => 0
    | .refused _ => 0

/-- What a tick can never change: the parameters, the control store (R84) and the debug controller's data (R302). -/
def SameFixtures (s t : State) : Prop :=
  t.cfg = s.cfg ∧ t.cs = s.cs ∧ t.breakpoints = s.breakpoints ∧ t.nextBreakpointId = s.nextBreakpointId

end Sys2Proof.Machine
end

