-- ==== Sys2Proof/Certificates/Slice0/Obligations.lean ====
section
/-! DEFINITION. The statements for the provers. Each says which rule of spec/ it formalises; a statement that rests on a choice of
the model names the log entry. -/

open Sys2Proof Sys2Proof.Machine

/-! ## Encoding and images -/

/-- R102: the place of every field in the control word. -/
def Obligations.ControlWordFieldsLieWhereTheLayoutTablePutsThem : Prop :=
  ∀ w : CWord, decodeWord Layout.textbook w =
    { addr := w.extractLsb' 27 9
      jam := { jmpc := w.getLsbD 26, jmpn := w.getLsbD 25, jmpz := w.getLsbD 24 }
      sh := { sll8 := w.getLsbD 23, sra1 := w.getLsbD 22 }
      alu := { f0 := w.getLsbD 21, f1 := w.getLsbD 20, ena := w.getLsbD 19, enb := w.getLsbD 18, inva := w.getLsbD 17,
               inc := w.getLsbD 16 }
      c := { h := w.getLsbD 15, opc := w.getLsbD 14, tos := w.getLsbD 13, cpp := w.getLsbD 12, lv := w.getLsbD 11,
             sp := w.getLsbD 10, pc := w.getLsbD 9, mdr := w.getLsbD 8, mar := w.getLsbD 7 }
      mem := { write := w.getLsbD 6, read := w.getLsbD 5, fetch := w.getLsbD 4 }
      b := w.extractLsb' 0 4 }

/-- R103 from the record's side, for every well-formed layout (LAYOUT is a parameter, log 7). -/
def Obligations.DecodingAnEncodedRecordGivesItBack : Prop :=
  ∀ (L : Layout) (mi : MicroInstr), L.wf = true → decodeWord L (encodeWord L mi) = mi

/-- R103 from the word's side: no word is two records and none is lost. -/
def Obligations.EncodingADecodedWordGivesItBack : Prop :=
  ∀ (L : Layout) (w : CWord), L.wf = true → encodeWord L (decodeWord L w) = w

/-- R105, R133: whatever the layout, the rows the decoder finds in a word (with the selector codes of R191: log 9) are exactly those
whose mask and match the word meets; and for the layout of R102 (log 7) masks and matches are the columns of the opcode table. -/
def Obligations.DecoderFindsExactlyTheRowsOfMaskAndMatch : Prop :=
  (∀ (L : Layout) (w : CWord) (i : Instr), L.wf = true →
    (i ∈ (decodeWord L w).ops BSel.textbook ↔ i.selectedBy L w = true)) ∧
  (∀ i : Instr, i.mask Layout.textbook = i.tableMask ∧ i.pattern Layout.textbook = i.tablePattern)

/-- Each row whose own word is not all zero is named by that word; the all-zero word is named ALU.AND (the model's choice of one
name for a word that selects several rows: log 1). -/
def Obligations.RowIsNamedByItsOwnWord : Prop :=
  (∀ i : Instr, encode i ≠ 0#36 → decodeTableWord 40 (encode i).toNat = some i) ∧
  (∀ i : Instr, encode i = 0#36 → decodeTableWord 40 (encode i).toNat = some .aluAnd)

/-- R122: the 36 bits of a record come first, padding is ignored on reading and 0 on writing. -/
def Obligations.RecordHoldsTheControlWordInItsFirstBits : Prop :=
  (∀ b0 b1 b2 b3 b4 : Byte, wordOfRecord 5 [b0, b1, b2, b3, b4] = (b0 ++ b1 ++ b2 ++ b3 ++ b4 : BitVec 40).extractLsb' 4 36) ∧
  (∀ w : CWord, (recordOfWord 5 w).length = 5 ∧ ∃ b0 b1 b2 b3 b4 : Byte, recordOfWord 5 w = [b0, b1, b2, b3, b4] ∧
    b4.extractLsb' 0 4 = 0#4) ∧
  (∀ (n : Nat) (w : CWord), 5 ≤ n → (recordOfWord n w).length = n ∧ wordOfRecord n (recordOfWord n w) = w)

/-- R120 to R124, R110: the image of up to 512 microinstructions loads into slots 0, 1, 2, …, the slots above are empty. -/
def Obligations.MicrocodeImageLoadsRecordsIntoConsecutiveSlots : Prop :=
  ∀ (c : Config) (code : List MicroInstr), c.wf = true → code.length ≤ 512 →
    (c.rejectIllegalAtLoad = true → ∀ mi ∈ code, mi.legal = true) →
    ∃ cs, loadMicrocode c (microImage c code) = .ok cs ∧ cs.wf = true ∧ ∀ a : MAddr, slotAt cs a = code[a.toNat]?

/-- R123: bytes left over after the last whole record refuse the image, and no core is constructed. That construct answers the
microcode image's error whatever the macro image is (also an unreadable or malformed one) is R313 with the spec's decision D22. The
model's own: that the truncation is the cause where the image also has more than 512 whole records, or an illegal word under
REJECT_ILLEGAL_AT_LOAD (R271, R124, R110 give no precedence: log 24), and that an unreadable stream is `none` (log 19). -/
def Obligations.TruncatedMicrocodeRecordRefusesTheImage : Prop :=
  ∀ (c : Config) (bs : List Byte), c.wf = true → 4 ≤ bs.length → beNat (bs.take 4) = c.mic1Magic.toNat →
    (bs.length - 4) % c.recordBytes ≠ 0 →
    loadMicrocode c bs = .error (.fileFormat .microcode .truncatedRecord) ∧
    ∀ ijvm : Option (List Byte), construct c (some bs) ijvm = .error (.fileFormat .microcode .truncatedRecord) ∧
      construct c none ijvm = .error (.fileFormat .microcode .unreadable)

/-- R124, D21: more than 512 records refuse the image. That this is the cause where one of them is also an illegal word under
REJECT_ILLEGAL_AT_LOAD is the model's (R271, R110 give no precedence: log 24). -/
def Obligations.OversizedMicrocodeImageIsRefused : Prop :=
  ∀ (c : Config) (code : List MicroInstr), c.wf = true → 512 < code.length →
    loadMicrocode c (microImage c code) = .error (.fileFormat .microcode .tooManyRecords)

/-- R110: with REJECT_ILLEGAL_AT_LOAD no loaded word has an illegal pair, and an image with one is refused as
IllegalSignalConfiguration (C12). -/
def Obligations.RejectOptionKeepsIllegalWordsOutOfTheStore : Prop :=
  (∀ (c : Config) (bs : List Byte) (cs : ControlStore), c.rejectIllegalAtLoad = true → loadMicrocode c bs = .ok cs →
    ∀ (a : MAddr) (mi : MicroInstr), slotAt cs a = some mi →
      (mi.sh.sll8 && mi.sh.sra1) = false ∧ (mi.mem.read && mi.mem.write) = false) ∧
  (∀ (c : Config) (code : List MicroInstr), c.wf = true → code.length ≤ 512 → c.rejectIllegalAtLoad = true →
    (∃ mi ∈ code, mi.legal = false) →
    ∃ slot mi, loadMicrocode c (microImage c code) = .error (.illegalSignals slot mi) ∧ code[slot]? = some mi ∧ mi.legal = false)

/-- R86 to R90: the blocks of a macro image are stored in image order, each data byte at start + i, a later block over an earlier
one, everything else as MEM_INIT has it. -/
def Obligations.MacroImageStoresItsBlocksInOrder : Prop :=
  (∀ (c : Config) (blocks : List (Nat × List Byte)), c.wf = true → 4 * c.memWords < 2 ^ 32 →
    (∀ x ∈ blocks, x.1 + x.2.length ≤ 4 * c.memWords) →
    loadMacro c (macroImage blocks) = .ok (blocks.foldl (fun m x => storeBytes m x.1 x.2) c.memInit)) ∧
  (∀ (m : Memory) (start : Nat) (bs : List Byte) (a : Nat), Memory.wf m = true →
    readByte (storeBytes m start bs) a =
      if h : start ≤ a ∧ a - start < bs.length then bs[a - start]'h.2 else readByte m a)

/-- R89: a block that does not fit refuses the image (the sum is not wrapped), after any blocks that fit and whatever bytes follow
it (that the first bad block gives the cause is the model's: log 24). -/
def Obligations.BlockOutsideMemoryRefusesTheImage : Prop :=
  ∀ (c : Config) (good : List (Nat × List Byte)) (start : Nat) (bs tail : List Byte),
    (∀ x ∈ good, x.1 < 2 ^ 32 ∧ x.2.length < 2 ^ 32 ∧ x.1 + x.2.length ≤ 4 * c.memWords) →
    start < 2 ^ 32 → bs.length < 2 ^ 32 → 4 * c.memWords < start + bs.length →
    loadMacro c (macroImage (good ++ [(start, bs)]) ++ tail) = .error (.fileFormat .ijvm .blockOutsideMemory)

/-- R313: a constructed core has the invariant, is as reset leaves it, and has its streams and breakpoints as construction says.
-/
def Obligations.ConstructedCoreIsResetAndInvariant : Prop :=
  ∀ (c : Config) (micro ijvm : Option (List Byte)) (s : State), c.wf = true → construct c micro ijvm = .ok s →
    s.Inv ∧ resetMachine s = s ∧ s.cfg = c ∧ s.output = [] ∧ s.input = c.input ∧ s.breakpoints = []

/-- A few words written out from R102, R126 and 95_test_vectors.md (a sanity statement). -/
def Obligations.SampleWordsDecodeToTheirFields : Prop :=
  decodeTableMicro 40 0x008350211 = some { MicroInstr.blank with
    addr := 0x001#9, alu := AluName.signals .bPlus1, mem := ⟨true, false, false⟩, b := 1#4,
    c := ⟨false, false, false, false, false, false, true, false, false⟩ } ∧
  decodeTableMicro 40 0x011364008 = some { MicroInstr.blank with
    addr := 0x002#9, jam := ⟨false, false, true⟩, alu := AluName.signals .bMinus1, b := 8#4,
    c := ⟨false, true, false, false, false, false, false, false, false⟩ } ∧
  decodeTableMicro 40 0x7FA320009 = some { MicroInstr.blank with
    addr := 0x0FF#9, jam := ⟨false, true, false⟩, alu := AluName.signals .minusOne, b := 9#4 } ∧
  decodeTableMicro 40 0x810000009 = some (haltWord 0x102#9)

/-! ## The ALU and the shifter -/

/-- R148: the chain of slices of R146 is the closed form, for all 64 settings. -/
def Obligations.SliceChainEqualsClosedForm : Prop :=
  ∀ (g : AluSig) (a b : Word),
    let pa := (if g.ena then a else 0#32) ^^^ (if g.inva then 0xFFFFFFFF#32 else 0#32)
    let pb := if g.enb then b else 0#32
    aluWord g a b =
      match g.f0, g.f1 with
      | false, false => pa &&& pb
      | false, true => pa ||| pb
      | true, false => ~~~pb
      | true, true => pa + pb + (if g.inc then 1#32 else 0#32)

/-- R150 to R153: result, flags and frame of the four function rows, which always complete; and their words (the bit positions are
the spec's decision D1, log 7). -/
def Obligations.AluFunctionRowsComputeResultAndFlags : Prop :=
  (encode .aluAnd = 0x000000000#36 ∧ encode .aluOr = 0x000100000#36 ∧ encode .aluNotb = 0x000200000#36 ∧
    encode .aluSum = 0x000300000#36) ∧
  ∀ s : State,
    let g := s.alu.sig
    let pa := (if g.ena then s.alu.a else 0#32) ^^^ (if g.inva then 0xFFFFFFFF#32 else 0#32)
    let pb := if g.enb then s.alu.b else 0#32
    let after := fun (f0 f1 : Bool) (out : Word) =>
      { s with alu := { a := s.alu.a, b := s.alu.b, sig := { g with f0 := f0, f1 := f1 }, out := out, n := out.getLsbD 31,
                        z := decide (out = 0#32) } }
    exec .aluAnd s = .next (after false false (pa &&& pb)) ∧
    exec .aluOr s = .next (after false true (pa ||| pb)) ∧
    exec .aluNotb s = .next (after true false (~~~pb)) ∧
    exec .aluSum s = .next (after true true (pa + pb + (if g.inc then 1#32 else 0#32)))

/-- R154 to R157: each modifier row raises its own control line and changes nothing else. -/
def Obligations.AluModifierRowsRaiseTheirLine : Prop :=
  ∀ s : State,
    exec .ena s = .next { s with alu := { s.alu with sig := { s.alu.sig with ena := true } } } ∧
    exec .enb s = .next { s with alu := { s.alu with sig := { s.alu.sig with enb := true } } } ∧
    exec .inva s = .next { s with alu := { s.alu with sig := { s.alu.sig with inva := true } } } ∧
    exec .inc s = .next { s with alu := { s.alu with sig := { s.alu.sig with inc := true } } }

/-- R131: each of the 16 named settings gives the expression it stands for. -/
def Obligations.NamedAluSettingsGiveTheirExpression : Prop :=
  ∀ (name : AluName) (x y : Word), aluWord name.signals x y =
    match name with
    | .a => x
    | .b => y
    | .notA => ~~~x
    | .notB => ~~~y
    | .aPlusB => x + y
    | .aPlusBPlus1 => x + y + 1#32
    | .aPlus1 => x + 1#32
    | .bPlus1 => y + 1#32
    | .bMinusA => y - x
    | .bMinus1 => y - 1#32
    | .negA => -x
    | .aAndB => x &&& y
    | .aOrB => x ||| y
    | .zero => 0#32
    | .one => 1#32
    | .minusOne => 0xFFFFFFFF#32

/-- R147, R159: the flags are those of the signed reading, the sum wraps, and N and Z are never both 1 (R185). -/
def Obligations.SumWrapsAndFlagsReadItSigned : Prop :=
  ∀ a b : Word,
    let out := aluWord (AluName.signals .aPlusB) a b
    out.toNat = (a.toNat + b.toNat) % 2 ^ 32 ∧
    negativeFlag out = decide (out.toInt < 0) ∧ zeroFlag out = decide (out.toNat = 0) ∧
    (negativeFlag out && zeroFlag out) = false

/-- R171 to R173: output and frame of the three shifter rows, which always complete; the flags stay (R175); and their words (D1, log
7). -/
def Obligations.ShifterRowsShiftTheAluOutput : Prop :=
  (encode .shPass = 0x000000000#36 ∧ encode .sll8 = 0x000800000#36 ∧ encode .sra1 = 0x000400000#36) ∧
  ∀ s : State,
    exec .shPass s = .next { s with shOut := s.alu.out } ∧
    (∃ v : Word, exec .sll8 s = .next { s with shOut := v } ∧ v = (s.alu.out.extractLsb' 0 24 ++ 0#8 : BitVec 32) ∧
      v.toNat = s.alu.out.toNat * 256 % 2 ^ 32) ∧
    (∃ v : Word, exec .sra1 s = .next { s with shOut := v } ∧
      v = (s.alu.out.extractLsb' 31 1 ++ s.alu.out.extractLsb' 1 31 : BitVec 32) ∧ v.toInt = s.alu.out.toInt / 2)

/-- R174: the row raises, and a tick that has both signals is cut in phase 1 with nothing written but `mir` and the ALU's
outputs; and the row's word (its bit positions are the spec's decision D1, log 7, and no part of R174). -/
def Obligations.IllegalShifterPairFaultsBeforeAnyWrite : Prop :=
  encode .shIllegal = 0x000C00000#36 ∧
  (∀ s : State, exec .shIllegal s = .next { s with fault := some (.illegalShifter s.mpc s.mir) }) ∧
  (∀ (s : State) (mi : MicroInstr), s.fault = none → currentSlot s = some mi → mi.sh.sll8 = true → mi.sh.sra1 = true →
    ∃ t : State, step s = .next t ∧ t.fault = some (.illegalShifter s.mpc (some mi)) ∧ t.alu.out = aluOutOf mi s ∧
      t.alu.n = negativeFlag (aluOutOf mi s) ∧ t.alu.z = zeroFlag (aluOutOf mi s) ∧
      t = { s with mir := some mi, alu := t.alu, fault := t.fault })

/-! ## The buses -/

/-- R400 to R408: each source row drives the ALU's B input and changes nothing else; and its word, which is its selector code (the
codes are the spec's decision D4, log 9). -/
def Obligations.BusRowsDriveTheSelectedSource : Prop :=
  (encode .bMdr = 0#36 ∧ encode .bPc = 1#36 ∧ encode .bMbr = 2#36 ∧ encode .bMbru = 3#36 ∧ encode .bSp = 4#36 ∧
    encode .bLv = 5#36 ∧ encode .bCpp = 6#36 ∧ encode .bTos = 7#36 ∧ encode .bOpc = 8#36) ∧
  ∀ s : State,
    let driven := fun v : Word => { s with alu := { s.alu with b := v } }
    exec .bMdr s = .next (driven s.regs.mdr) ∧ exec .bPc s = .next (driven s.regs.pc) ∧
    exec .bMbr s = .next (driven s.regs.mbr) ∧ exec .bMbru s = .next (driven s.regs.mbru) ∧
    exec .bSp s = .next (driven s.regs.sp) ∧ exec .bLv s = .next (driven s.regs.lv) ∧
    exec .bCpp s = .next (driven s.regs.cpp) ∧ exec .bTos s = .next (driven s.regs.tos) ∧
    exec .bOpc s = .next (driven s.regs.opc)

/-- R409, the spec's decision D4: the seven unassigned selector codes put 0 on the B bus and change nothing else. -/
def Obligations.UnassignedSelectorRowsDriveZero : Prop :=
  (encode .bNone9 = 9#36 ∧ encode .bNone10 = 10#36 ∧ encode .bNone11 = 11#36 ∧ encode .bNone12 = 12#36 ∧
    encode .bNone13 = 13#36 ∧ encode .bNone14 = 14#36 ∧ encode .bNone15 = 15#36) ∧
  ∀ s : State, ∀ i ∈ [Instr.bNone9, .bNone10, .bNone11, .bNone12, .bNone13, .bNone14, .bNone15],
    exec i s = .next { s with alu := { s.alu with b := 0#32 } }

/-- R420 to R428: each destination row writes the shifter's output into its own register and nothing else; and its word (D1, log
7). -/
def Obligations.DestinationRowsWriteTheShifterOutput : Prop :=
  (encode .cH = 0x000008000#36 ∧ encode .cOpc = 0x000004000#36 ∧ encode .cTos = 0x000002000#36 ∧ encode .cCpp = 0x000001000#36 ∧
    encode .cLv = 0x000000800#36 ∧ encode .cSp = 0x000000400#36 ∧ encode .cPc = 0x000000200#36 ∧
    encode .cMdr = 0x000000100#36 ∧ encode .cMar = 0x000000080#36) ∧
  ∀ s : State,
    exec .cH s = .next { s with regs := { s.regs with h := s.shOut } } ∧
    exec .cOpc s = .next { s with regs := { s.regs with opc := s.shOut } } ∧
    exec .cTos s = .next { s with regs := { s.regs with tos := s.shOut } } ∧
    exec .cCpp s = .next { s with regs := { s.regs with cpp := s.shOut } } ∧
    exec .cLv s = .next { s with regs := { s.regs with lv := s.shOut } } ∧
    exec .cSp s = .next { s with regs := { s.regs with sp := s.shOut } } ∧
    exec .cPc s = .next { s with regs := { s.regs with pc := s.shOut } } ∧
    exec .cMdr s = .next { s with regs := { s.regs with mdr := s.shOut } } ∧
    exec .cMar s = .next { s with regs := { s.regs with mar := s.shOut } }

/-- R196: what a register write does, MBR and MBRU among them, and that the host's set does no more. -/
def Obligations.RegisterWriteDerivesMbruOnlyFromMbr : Prop :=
  (∀ (s : State) (r : Reg) (v : Word), hostSetReg r v s = { s with regs := (hostSetReg r v s).regs }) ∧
  (∀ (s : State) (v : Word),
    hostGetReg .mbr (hostSetReg .mbr v s) = (if v.getLsbD 7 then (v &&& 0xFF#32) ||| 0xFFFFFF00#32 else v &&& 0xFF#32) ∧
    hostGetReg .mbru (hostSetReg .mbr v s) = v &&& 0xFF#32 ∧
    ∀ r : Reg, r ≠ .mbr → r ≠ .mbru → hostGetReg r (hostSetReg .mbr v s) = hostGetReg r s) ∧
  (∀ (s : State) (r : Reg) (v : Word), r ≠ .mbr →
    hostGetReg r (hostSetReg r v s) = v ∧ ∀ q : Reg, q ≠ r → hostGetReg q (hostSetReg r v s) = hostGetReg q s)

/-! ## Memory -/

/-- R66: the byte port sees the words big-endian. -/
def Obligations.BytePortSeesWordsBigEndian : Prop :=
  (∀ (m : Memory) (b : Nat), readByte m b = (readWord m (b / 4)).extractLsb' (24 - 8 * (b % 4)) 8) ∧
  (∀ (m : Memory) (w : Nat) (v : Word), Memory.wf m = true →
    readByte (writeWord m w v) (4 * w) = v.extractLsb' 24 8 ∧ readByte (writeWord m w v) (4 * w + 1) = v.extractLsb' 16 8 ∧
    readByte (writeWord m w v) (4 * w + 2) = v.extractLsb' 8 8 ∧ readByte (writeWord m w v) (4 * w + 3) = v.extractLsb' 0 8 ∧
    readWord (writeWord m w v) w = v)

/-- R80, R272: the host's word accesses; a rejected one records its kind and its address. -/
def Obligations.HostWordRoundTrip : Prop :=
  (∀ (s : State) (a v : Word), Memory.wf s.mem = true → a.toNat < s.cfg.memWords →
    ∃ m : Memory, hostWriteWord a v s = .ok { s with mem := m } ∧ hostReadWord a { s with mem := m } = .ok v ∧
      ∀ b : Nat, b ≠ a.toNat → readWord m b = readWord s.mem b) ∧
  (∀ (s : State) (a v : Word), s.cfg.memWords ≤ a.toNat →
    hostWriteWord a v s = .error (.addressingHost .write a) ∧ hostReadWord a s = .error (.addressingHost .read a))

/-- R210: FETCH completes at a valid byte address with the byte of big-endian memory and raises at any other, and touches nothing
else. -/
def Obligations.FetchRowLatchesTheByteOrFaults : Prop :=
  encode .fetch = 0x000000010#36 ∧ ∀ s : State,
    let b := s.regs.pc
    let staged := { s.memu with fetch := true, byteAddr := b }
    (b.toNat < 4 * s.cfg.memWords →
      exec .fetch s = .next { s with
        memu := { staged with pendByte := some (lane (readWord s.mem (b.toNat / 4)) (b.toNat % 4)) }
        lastMacroAddr := some b }) ∧
    (4 * s.cfg.memWords ≤ b.toNat →
      exec .fetch s = .next { s with memu := staged, fault := some (.addressingFetch b) })

/-- R211, with R77 and R78: READ from memory, from the port, outside both, and with nothing to read. What the port does is the
spec's decision D13 (log 13), that an empty one stops the step is D34 (log 3), and how an endless input is held is log 12. -/
def Obligations.ReadRowLatchesTheWordOrFaultsOrWaits : Prop :=
  encode .read = 0x000000020#36 ∧ ∀ s : State,
    let w := s.regs.mar
    let staged := { s.memu with read := true, wordAddr := w }
    (w = s.cfg.ioAddr → s.input = ⟨[], none⟩ → exec .read s = .fault .awaitingInput) ∧
    (∀ (c : Byte) (rest : List Byte) (e : Option Nat), w = s.cfg.ioAddr → s.input = ⟨c :: rest, e⟩ →
      exec .read s = .next { s with memu := { staged with pendWord := some (c.setWidth 32) }, input := ⟨rest, e⟩ }) ∧
    (∀ k : Nat, w = s.cfg.ioAddr → s.input = ⟨[], some k⟩ →
      exec .read s = .next { s with
        memu := { staged with pendWord := some ((Config.endlessInput k).setWidth 32) }, input := ⟨[], some (k + 1)⟩ }) ∧
    (w ≠ s.cfg.ioAddr → w.toNat < s.cfg.memWords →
      exec .read s = .next { s with memu := { staged with pendWord := some (readWord s.mem w.toNat) } }) ∧
    (w ≠ s.cfg.ioAddr → s.cfg.memWords ≤ w.toNat →
      exec .read s = .next { s with memu := staged, fault := some (.addressingRead w) })

/-- R212, with R76: WRITE to memory, where every byte outside the word at MAR reads as before, to the port, and outside both. That
the port appends a byte to the output is the spec's decision D13 (log 13). -/
def Obligations.WriteRowStoresTheWordAndNothingElse : Prop :=
  encode .write = 0x000000040#36 ∧ ∀ s : State,
    let w := s.regs.mar
    let staged := { s.memu with write := true, wordAddr := w, wordValue := s.regs.mdr }
    (w = s.cfg.ioAddr →
      exec .write s = .next { s with memu := staged, output := s.output ++ [s.regs.mdr.extractLsb' 0 8] }) ∧
    (w ≠ s.cfg.ioAddr → w.toNat < s.cfg.memWords → Memory.wf s.mem = true →
      ∃ m : Memory, exec .write s = .next { s with memu := staged, mem := m } ∧ Memory.wf m = true ∧
        readWord m w.toNat = s.regs.mdr ∧
        ∀ a : Nat, (a < 4 * w.toNat ∨ 4 * w.toNat + 3 < a) → readByte m a = readByte s.mem a) ∧
    (w ≠ s.cfg.ioAddr → s.cfg.memWords ≤ w.toNat →
      exec .write s = .next { s with memu := staged, fault := some (.addressingWrite w) })

/-- R214: the row raises, and a tick with both signals is cut in phase 3 before any access, phase 2 having taken effect. -/
def Obligations.IllegalMemoryPairFaultsAfterWriteBack : Prop :=
  (∀ s : State, exec .memIllegal s = .next { s with fault := some (.illegalReadWrite s.mpc s.mir) }) ∧
  (∀ (s : State) (mi : MicroInstr), s.fault = none → currentSlot s = some mi → mi.sh.legal = true → mi.mem.read = true →
    mi.mem.write = true →
    ∃ t : State, step s = .next t ∧ t.fault = some (.illegalReadWrite s.mpc (some mi)) ∧ t.regs = regsAfter mi s ∧
      t.mem = s.mem ∧ t.output = s.output ∧ t.input = s.input ∧ t.memu.pendWord = none ∧ t.memu.pendByte = none ∧
      t.lastMacroAddr = s.lastMacroAddr ∧ t.mpc = s.mpc ∧ t.ticks = s.ticks)

/-! ## The next address -/

/-- R181 to R184, one row at a time: NEXT puts its operand there, and each jump row acts on the address already in `mpc` (that the
rows act in this order inside a tick is the model's: log 1). -/
def Obligations.NextAndJumpRowsFormTheAddress : Prop :=
  ∀ s : State,
    let steered := fun a : MAddr => { s with mpc := a, mpcc := { s.mpcc with out := a } }
    (∀ a : MAddr, exec (.nextAddr a) s = .next { steered a with prevMpc := s.mpc }) ∧
    (∃ a : MAddr, exec .jmpc s = .next (steered a) ∧
      a.extractLsb' 0 8 = s.mpc.extractLsb' 0 8 ||| s.regs.mbr.extractLsb' 0 8 ∧ a.getLsbD 8 = s.mpc.getLsbD 8) ∧
    (∃ a : MAddr, exec .jmpn s = .next (steered a) ∧
      a.extractLsb' 0 8 = s.mpc.extractLsb' 0 8 ∧ a.getLsbD 8 = (s.mpc.getLsbD 8 || s.mpcc.n)) ∧
    (∃ a : MAddr, exec .jmpz s = .next (steered a) ∧
      a.extractLsb' 0 8 = s.mpc.extractLsb' 0 8 ∧ a.getLsbD 8 = (s.mpc.getLsbD 8 || s.mpcc.z))

/-- R180, with R187: the next address of every completed tick, from the flags of the same tick's ALU and the MBR of after its
fill. -/
def Obligations.CompletedTickGoesToTheCalculatedAddress : Prop :=
  ∀ (s t : State) (mi : MicroInstr), s.fault = none → currentSlot s = some mi → step s = .next t → t.fault = none →
    t.mpc.extractLsb' 0 8 =
      (if mi.jam.jmpc then mi.addr.extractLsb' 0 8 ||| t.regs.mbr.extractLsb' 0 8 else mi.addr.extractLsb' 0 8) ∧
    t.mpc.getLsbD 8 =
      (mi.addr.getLsbD 8 || (mi.jam.jmpn && negativeFlag (aluOutOf mi s)) || (mi.jam.jmpz && zeroFlag (aluOutOf mi s))) ∧
    t.mpcc.out = t.mpc ∧ t.prevMpc = s.mpc

/-! ## The tick -/

/-- R231: a step runs exactly the micro-operations of the microinstruction in the slot `mpc` names, in the three phases, each
through `exec`, cut at a raise; and a control word placed where the step fetches is the one it runs. -/
def Obligations.StepRunsTheSelectedMicroOperations : Prop :=
  (∀ (s : State) (mi : MicroInstr), s.fault = none → currentSlot s = some mi →
    step s =
      andThen (runOps (mi.computeOps s.cfg.bsel) (beginTick mi s)) fun s1 =>
      andThen (andThen (runOps mi.writeOps s1) fun s2 => .next (fill (latchFlags s2))) fun s3 =>
      andThen (andThen (runOps mi.mem.illegalRows (stageMem mi.mem s3)) fun s4 =>
        andThen (.next (validateStaged s4)) fun s5 => runOps (accessOrder mi.mem s5) (countDraw mi.mem s5)) fun s6 =>
      andThen (runOps mi.nextOps s6) fun s7 => .next (finishTick mi s7)) ∧
  (∀ (i : Instr) (is : List Instr) (s : State), runOps (i :: is) s = andThen (exec i s) (runOps is)) ∧
  (∀ (s : State) (nbits w : Nat) (mi : MicroInstr), decodeTableMicro nbits w = some mi →
    step (s.withFetchWord nbits w) = tick mi { s with cs := placeSlot s.cs s.mpc mi, fault := none })

/-- R231 as one formula: a tick that neither faults nor is stuck completes, with every piece of state as the rules of the units
give it. The model's own in it: `pend_byte` and `draws` in a race (R215, log 4), the ALU's inputs and lines (log 14), `tickDone` (log
15). -/
def Obligations.CompletedTickIsTheClosedForm : Prop :=
  ∀ (s : State) (mi : MicroInstr), s.fault = none → currentSlot s = some mi → tickFault mi s = none → tickStuck mi s = false →
    step s = .next (tickState mi s)

/-- R277: a tick that faults reports the first fault in the order of detection; what phase 2 wrote stays unless the shifter pair
was the fault, and no access is made (no result is left pending but what the shifter's fault left undelivered), no address formed,
no tick counted. -/
def Obligations.FaultingTickReportsTheFirstFault : Prop :=
  ∀ (s : State) (mi : MicroInstr) (f : FaultRecord), s.fault = none → currentSlot s = some mi → tickFault mi s = some f →
    ∃ t : State, step s = .next t ∧ t.fault = some f ∧
      t.regs = (if mi.sh.sll8 && mi.sh.sra1 then s.regs else regsAfter mi s) ∧
      t.memu.pendWord = (if mi.sh.sll8 && mi.sh.sra1 then s.memu.pendWord else none) ∧
      t.memu.pendByte = (if mi.sh.sll8 && mi.sh.sra1 then s.memu.pendByte else none) ∧
      t.mem = s.mem ∧ t.output = s.output ∧ t.input = s.input ∧ t.lastMacroAddr = s.lastMacroAddr ∧
      t.mpc = s.mpc ∧ t.prevMpc = s.prevMpc ∧ t.ticks = s.ticks ∧ t.halted = s.halted ∧ t.tickDone = s.tickDone

/-- R78: with no input the whole tick has no successor; more input makes the whole tick possible. -/
def Obligations.EmptyInputStopsTheWholeTickUntilFed : Prop :=
  ∀ (s : State) (mi : MicroInstr), s.fault = none → currentSlot s = some mi → tickFault mi s = none → tickStuck mi s = true →
    step s = .fault .awaitingInput ∧
    ∀ (c : Byte) (rest : List Byte), ∃ t : State, step (hostFeedInput (c :: rest) s) = .next t ∧ t.fault = none ∧
      t.memu.pendWord = some (c.setWidth 32) ∧ t.input = ⟨rest, none⟩ ∧ t.ticks = s.ticks + 1

/-- R215: FETCH with WRITE. In the race the byte is the old one or the new one, whatever the free value is (log 4); otherwise both
accesses are independent. -/
def Obligations.RacingFetchTakesOldOrNewByte : Prop :=
  ∀ (s t : State) (mi : MicroInstr), s.fault = none → currentSlot s = some mi → step s = .next t → t.fault = none →
    Memory.wf s.mem = true → mi.mem.fetch = true → mi.mem.write = true → t.regs.mar ≠ s.cfg.ioAddr →
    readWord t.mem t.regs.mar.toNat = t.regs.mdr ∧
    (t.regs.pc.toNat / 4 = t.regs.mar.toNat →
      t.memu.pendByte = some (lane (readWord s.mem t.regs.mar.toNat) (t.regs.pc.toNat % 4)) ∨
      t.memu.pendByte = some (lane t.regs.mdr (t.regs.pc.toNat % 4))) ∧
    (t.regs.pc.toNat / 4 ≠ t.regs.mar.toNat →
      t.memu.pendByte = some (readByte s.mem t.regs.pc.toNat) ∧ readByte t.mem t.regs.pc.toNat = readByte s.mem t.regs.pc.toNat)

/-- R23: which registers a completed tick leaves alone. -/
def Obligations.TickLeavesUnnamedRegistersAlone : Prop :=
  ∀ (s t : State) (mi : MicroInstr), s.fault = none → currentSlot s = some mi → step s = .next t → t.fault = none →
    (mi.c.mar = false → t.regs.mar = s.regs.mar) ∧ (mi.c.pc = false → t.regs.pc = s.regs.pc) ∧
    (mi.c.sp = false → t.regs.sp = s.regs.sp) ∧ (mi.c.lv = false → t.regs.lv = s.regs.lv) ∧
    (mi.c.cpp = false → t.regs.cpp = s.regs.cpp) ∧ (mi.c.tos = false → t.regs.tos = s.regs.tos) ∧
    (mi.c.opc = false → t.regs.opc = s.regs.opc) ∧ (mi.c.h = false → t.regs.h = s.regs.h) ∧
    (mi.c.mdr = false → s.memu.pendWord = none → t.regs.mdr = s.regs.mdr) ∧
    (s.memu.pendByte = none → t.regs.mbr = s.regs.mbr ∧ t.regs.mbru = s.regs.mbru)

/-- R68, R76, R212: the bytes of memory a step leaves alone: all of them unless it completes a WRITE inside memory, and then all but
the four of the word at MAR. -/
def Obligations.StepLeavesOtherMemoryBytesAlone : Prop :=
  ∀ (s t : State) (mi : MicroInstr), s.fault = none → currentSlot s = some mi → step s = .next t → Memory.wf s.mem = true →
    ((mi.mem.write = false ∨ t.fault ≠ none ∨ t.regs.mar = s.cfg.ioAddr) → ∀ a : Nat, readByte t.mem a = readByte s.mem a) ∧
    ∀ a : Nat, (a < 4 * t.regs.mar.toNat ∨ 4 * t.regs.mar.toNat + 3 < a) → readByte t.mem a = readByte s.mem a

/-- R36, R84, R302: no step changes the parameters, the control store or the debug controller's data. R76, R77: the streams only
move forward, by at most one byte (the spec's decision D13, log 13). -/
def Obligations.StepKeepsFixturesAndStreamsMoveForward : Prop :=
  ∀ s t : State, step s = .next t → SameFixtures s t ∧
    (t.output = s.output ∨ ∃ c : Byte, t.output = s.output ++ [c]) ∧
    (t.input = s.input ∨ ∃ c : Byte, nextInput s.input = some (c, t.input))

/-- R302, C3: the breakpoint list is invisible to a step. -/
def Obligations.StepDoesNotReadTheBreakpointList : Prop :=
  ∀ (s : State) (l : List Breakpoint) (n : Nat),
    step { s with breakpoints := l, nextBreakpointId := n } =
      match step s with
      | .next t => .next { t with breakpoints := l, nextBreakpointId := n }
      | .fault f => .fault f
      | .refused r => .refused r

/-- R22, R36, R61, R180, R185, R218, R236: the invariant of states between ticks. -/
def Obligations.StepKeepsTheInvariant : Prop :=
  ∀ s t : State, s.Inv → step s = .next t → t.Inv

/-- The state right after reset satisfies the invariant (with the suggested parameters: log 5). -/
def Obligations.ResetStateSatisfiesTheInvariant : Prop := State.reset.Inv

/-- A step never refuses, and it answers a fault only for a fault already recorded (R240, R279) or for a READ of the port with no
input (R78). -/
def Obligations.StepStopsOnlyOnRecordedFaultOrEmptyInput : Prop :=
  (∀ (s : State) (r : Refusal), step s ≠ .refused r) ∧
  (∀ (s : State) (x : Fault), step s = .fault x →
    (∃ f : FaultRecord, s.fault = some f ∧ x = .reported f) ∨
    (x = .awaitingInput ∧ s.fault = none ∧ s.input = ⟨[], none⟩ ∧
      ∃ mi : MicroInstr, currentSlot s = some mi ∧ mi.mem.read = true ∧ (regsAfter mi s).mar = s.cfg.ioAddr))

/-! ## Latency -/

/-- R322, with R320 and R211: the result of a READ is in MDR after the next tick, even if that tick names MDR as a destination (that
the fill wins is the spec's decision D18, R217, log 21); its ALU still saw the old MDR; a WRITE in it stores the read result. What
the port gives and takes (R76, R77) is the spec's decision D13 (log 13). -/
def Obligations.ReadResultArrivesOneTickLaterAndWins : Prop :=
  ∀ (s t u : State) (m1 m2 : MicroInstr), s.fault = none → currentSlot s = some m1 → step s = .next t → t.fault = none →
    currentSlot t = some m2 → step t = .next u → u.fault = none → m1.mem.read = true →
    ∃ v : Word,
      (t.regs.mar ≠ s.cfg.ioAddr → v = readWord s.mem t.regs.mar.toNat) ∧
      (t.regs.mar = s.cfg.ioAddr → ∃ c : Byte, nextInput s.input = some (c, t.input) ∧ v = c.setWidth 32) ∧
      u.regs.mdr = v ∧ u.alu.b = busB t.cfg.bsel m2.b t.regs ∧
      (m2.mem.write = true →
        (u.regs.mar = s.cfg.ioAddr → u.output = t.output ++ [v.extractLsb' 0 8]) ∧
        (u.regs.mar ≠ s.cfg.ioAddr → Memory.wf t.mem = true → readWord u.mem u.regs.mar.toNat = v))

/-- R321: a fetched byte is in MBR and MBRU after the next tick, whose ALU still saw the old ones and whose JMPC already dispatches
on it. -/
def Obligations.FetchedByteSteersTheNextTicksDispatch : Prop :=
  ∀ (s t u : State) (m1 m2 : MicroInstr), s.fault = none → currentSlot s = some m1 → step s = .next t → t.fault = none →
    currentSlot t = some m2 → step t = .next u → u.fault = none → m1.mem.fetch = true → m1.mem.write = false →
    let c := readByte s.mem t.regs.pc.toNat
    u.regs.mbr = c.signExtend 32 ∧ u.regs.mbru = c.setWidth 32 ∧ u.alu.b = busB t.cfg.bsel m2.b t.regs ∧
    (m2.jam.jmpc = true → u.mpc.extractLsb' 0 8 = m2.addr.extractLsb' 0 8 ||| c)

/-- R81, R219: a READ in the tick after a WRITE of the same word samples the written value. -/
def Obligations.ReadAfterWriteSamplesTheWrittenWord : Prop :=
  ∀ (s t u : State) (m1 m2 : MicroInstr), s.fault = none → currentSlot s = some m1 → step s = .next t → t.fault = none →
    currentSlot t = some m2 → step t = .next u → u.fault = none → Memory.wf s.mem = true → m1.mem.write = true →
    m2.mem.read = true → t.regs.mar ≠ s.cfg.ioAddr → u.regs.mar = t.regs.mar → u.memu.pendWord = some t.regs.mdr

/-! ## Faults, halts and reset -/

/-- R279, R240, R310: a recorded fault is reported by every step and by every stepping call, whatever its count, and none of them
changes the state, until reset clears it. The model's own: that a refused call reports zero ticks and leaves the tick counter, which
R241's first line would set to 0, as R279 and U11 leave it (DEDUCED), and the bound of `run` and `step(n)` (DESIGN CHOICE): log 17. -/
def Obligations.FaultIsStickyUntilReset : Prop :=
  ∀ (s : State) (f : FaultRecord), s.fault = some f →
    step s = .fault (.reported f) ∧
    (∀ bound n : Nat, microStep n s = ⟨s, 0, .faulted f⟩ ∧ macroStep bound n s = ⟨s, 0, .faulted f⟩ ∧
      run bound s = ⟨s, 0, .faulted f⟩) ∧
    (resetMachine s).fault = none

/-- R310, R311: what reset sets and what it leaves. -/
def Obligations.ResetRestoresDefaultsAndKeepsMemory : Prop :=
  ∀ s : State,
    let t := resetMachine s
    t.regs = { mar := 0#32, mdr := 0#32, pc := s.cfg.resetPc, mbr := 0#32, mbru := 0#32, sp := s.cfg.resetSp, lv := s.cfg.resetLv,
               cpp := s.cfg.resetCpp, tos := 0#32, opc := 0#32, h := 0#32 } ∧
    t.mpc = 0#9 ∧ t.prevMpc = 0#9 ∧ t.mir = none ∧ t.ticks = 0 ∧ t.lastMacroAddr = none ∧ t.halted = false ∧ t.fault = none ∧
    t.alu.out = 0#32 ∧ t.alu.n = false ∧ t.alu.z = false ∧ t.shOut = 0#32 ∧
    t.mpcc = { n := false, z := false, out := 0#9 } ∧
    t.memu = { fetch := false, read := false, write := false, byteAddr := 0#32, wordAddr := 0#32, wordValue := 0#32,
               pendWord := none, pendByte := none } ∧
    t.cfg = s.cfg ∧ t.mem = s.mem ∧ t.cs = s.cs ∧ t.output = s.output ∧ t.input = s.input ∧ t.breakpoints = s.breakpoints ∧
    t.nextBreakpointId = s.nextBreakpointId

/-- R45, R314: a FETCH while PC holds the reset sentinel faults, for every legal choice of the parameters. -/
def Obligations.FetchAtTheResetSentinelFaults : Prop :=
  ∀ (s : State) (mi : MicroInstr), s.cfg.wf = true → slotAt s.cs 0#9 = some mi → mi.legal = true → mi.mem.fetch = true →
    mi.c.pc = false →
    ∃ t : State, step (resetMachine s) = .next t ∧ t.fault = some (.addressingFetch s.cfg.resetPc) ∧ t.memu.pendByte = none ∧
      t.mem = s.mem ∧ t.mpc = 0#9

/-- R239: an empty slot at `mpc` halts without a tick. -/
def Obligations.EmptySlotHaltsWithoutATick : Prop :=
  ∀ s : State, s.fault = none → currentSlot s = none → step s = .next { s with halted := true }

/-- R236: halt detection at the end of every completed tick, with `is_nop_or_halt` read as R237 reads it. -/
def Obligations.HaltIsDetectedAtTheEndOfATick : Prop :=
  (∀ mi : MicroInstr, isNopOrHalt mi = true ↔ mi = { MicroInstr.blank with b := mi.b, addr := mi.addr }) ∧
  (∀ (s t : State) (mi : MicroInstr), s.fault = none → currentSlot s = some mi → step s = .next t → t.fault = none →
    (t.halted = true ↔ (isNopOrHalt mi = true ∧ t.mpc = s.mpc) ∨ slotAt s.cs t.mpc = none) ∧ t.ticks = s.ticks + 1)

/-- R237, R132: a no-op that names its own slot never leaves it; after its first execution only the tick count changes (and the
ALU's B input, where the first execution delivered a result to the register its selector names; that field is the model's: log 14). -/
def Obligations.SelfLoopingNoOpIsAFixedPoint : Prop :=
  ∀ (s : State) (sel : Selector), s.fault = none →
    currentSlot s = some { MicroInstr.blank with b := sel, addr := s.mpc } →
    ∃ t : State, step s = .next t ∧ t.mpc = s.mpc ∧ t.halted = true ∧ t.mem = s.mem ∧ t.output = s.output ∧ t.input = s.input ∧
      (s.memu.pendWord = none → s.memu.pendByte = none → t.regs = s.regs) ∧
      step t = .next { t with ticks := t.ticks + 1, alu := { t.alu with b := busB t.cfg.bsel sel t.regs } }

/-! ## The host's calls and the controller -/

/-- R241: how many ticks `micro_step` can report, and that a halted core executes none, whatever the count (that the end of a call
of count 0 on it is named halted is the model's: log 23). -/
def Obligations.MicroStepCountsAtMostItsBound : Prop :=
  ∀ (mayGo : State → Bool) (n : Nat) (s : State),
    (microStepWith mayGo n s).ticks ≤ n ∧
    (s.fault = none → (microStepWith mayGo n s).state.ticks = (microStepWith mayGo n s).ticks) ∧
    ((microStepWith mayGo n s).ending = .countReached → (microStepWith mayGo n s).ticks = n) ∧
    (s.fault = none → s.halted = true → microStepWith mayGo n s = ⟨{ s with ticks := 0 }, 0, .halted⟩)

/-- R297: the first tick of a call runs whatever breakpoints match. -/
def Obligations.FirstTickRunsUnderAnyBreakpoint : Prop :=
  ∀ (mayGo : State → Bool) (n : Nat) (s : State), 0 < n → s.fault = none → s.halted = false → currentSlot s ≠ none →
    StepsSafely { s with ticks := 0 } → 1 ≤ (microStepWith mayGo n s).ticks

/-- R246: what each way of ending a call of `micro_step`, `run` or `step(n)` says of the state it leaves; the ends are told apart,
so that a call that leaves a halted core is named halted even if its count is reached (that precedence, and the bound on `run` and
`step(n)`, are the model's: log 23, 17). -/
def Obligations.CallEndingDescribesTheStateLeft : Prop :=
  ∀ (bound n : Nat) (s : State), ∀ r ∈ [microStep n s, run bound s, macroStep bound n s],
    (r.ending = .halted → r.state.halted = true ∧ r.state.fault = none) ∧
    (r.ending = .vetoed → canContinue r.state = false ∧ r.state.halted = false ∧ r.state.fault = none) ∧
    (r.ending = .countReached ∨ r.ending = .boundReached → r.state.halted = false ∧ r.state.fault = none) ∧
    (∀ f : FaultRecord, r.ending = .faulted f → r.state.fault = some f) ∧
    (r.ending = .stuck → step r.state = .fault .awaitingInput)

/-- R298, R276, R299, R300: adding appends with the next id; a duplicate or an invalid request changes nothing (which macro lines are
out of range is the model's: log 18); removing takes out the entries of the id, keeps the others in order and changes nothing else,
so an unknown id changes nothing; listing is in insertion order. -/
def Obligations.BreakpointRequestsBehaveAsListed : Prop :=
  (∀ (q : BreakpointRequest) (s : State), addBreakpoint q (addBreakpoint q s) = addBreakpoint q s) ∧
  (∀ (q : BreakpointRequest) (k : BreakpointKind) (s : State), q.kind = some k → (∀ b ∈ s.breakpoints, b.kind ≠ k) →
    listBreakpoints (addBreakpoint q s) = listBreakpoints s ++ [⟨s.nextBreakpointId, k⟩] ∧
    (addBreakpoint q s).nextBreakpointId = s.nextBreakpointId + 1) ∧
  (∀ s : State, (∀ v : Nat, addBreakpoint (.register none v) s = s) ∧
    (∀ (r : Reg) (v : Nat), 2 ^ 32 ≤ v → addBreakpoint (.register (some r) v) s = s) ∧
    (∀ a : Nat, 512 ≤ a → addBreakpoint (.microLine a) s = s) ∧
    (∀ a : Nat, 2 ^ 32 ≤ a → addBreakpoint (.macroLine a) s = s)) ∧
  (∀ (id : Nat) (s : State), removeBreakpoint id s = { s with breakpoints := s.breakpoints.filter (fun b => b.id ≠ id) }) ∧
  (∀ (id : Nat) (s : State) (l : List Breakpoint) (b : Breakpoint) (m : List Breakpoint), s.breakpoints = l ++ b :: m → b.id = id →
    (∀ x ∈ l ++ m, x.id ≠ id) → listBreakpoints (removeBreakpoint id s) = l ++ m) ∧
  (∀ (id : Nat) (s : State), (∀ b ∈ s.breakpoints, b.id ≠ id) → removeBreakpoint id s = s)

/-- R291, R294 to R296: when the controller lets the engine continue. -/
def Obligations.ControllerStopsExactlyOnAMatch : Prop :=
  ∀ s : State, canContinue s = false ↔
    (∃ b ∈ s.breakpoints, ∃ (r : Reg) (v : Word), b.kind = .register r v ∧ hostGetReg r s = v) ∨
    (∃ b ∈ s.breakpoints, b.kind = .microLine s.mpc) ∨
    (∃ b ∈ s.breakpoints, ∃ a : Word, b.kind = .macroLine a ∧ s.mpc = s.cfg.main1Addr ∧ s.lastMacroAddr = some a)

/-- R242: `step(n)` crosses at most `n` macro boundaries (as the spec's decision D20 recognises them), exactly `n` when the count
ends it and fewer when something else but a halt does; it leaves the state of after the ticks it reports (the bound on them is the
model's: log 17). -/
def Obligations.MacroStepCrossesItsBoundaries : Prop :=
  ∀ (bound n : Nat) (s : State), s.fault = none →
    let r := macroStep bound n s
    let crossed := boundariesIn r.ticks s.regs.pc { s with ticks := 0 }
    r.ticks ≤ bound ∧ crossed ≤ n ∧
    (r.ending = .countReached → crossed = n) ∧
    (r.ending = .boundReached → crossed < n ∧ r.ticks = bound) ∧
    (r.ending = .vetoed ∨ r.ending = .stuck ∨ (∃ f : FaultRecord, r.ending = .faulted f) → crossed < n) ∧
    (r.state.fault = none → r.ending ≠ .halted → r.state = afterSteps r.ticks { s with ticks := 0 })
end

