-- ==== Sys2Proof/Laws/Host.lean ====
section
/-! SUPPORT. What the parts of a stepping call can answer, each said once, so that a claim about calls unfolds no loop but its own. -/

namespace Sys2Proof.Machine

theorem steppingCall_refused {s : State} {f : FaultRecord} (h : s.fault = some f) (loop : State → CallReport) :
    steppingCall loop s = ⟨s, 0, .faulted f⟩ := by
  simp only [steppingCall, h]

theorem steppingCall_begun {s : State} (h : s.fault = none) (loop : State → CallReport) :
    steppingCall loop s = loop { s with ticks := 0 } := by
  simp only [steppingCall, h]

theorem endUsedUp_halted {s : State} (h : s.halted = true) (e : CallEnd) : endUsedUp e s = endCall .halted s := by
  simp [endUsedUp, h]

theorem endUsedUp_running {s : State} (h : s.halted = false) (e : CallEnd) : endUsedUp e s = endCall e s := by
  simp [endUsedUp, h]

/-- Everything the tests before a tick can answer (R241). -/
theorem beforeTick_cases (mayGo : State → Bool) (first : Bool) (s : State) :
    (∃ f, s.fault = some f ∧ beforeTick mayGo first s = some (endCall (.faulted f) s)) ∨
    (s.fault = none ∧ (s.halted = true ∨ currentSlot s = none) ∧
      beforeTick mayGo first s = some (endCall .halted (haltAtEmptySlot s))) ∨
    (s.fault = none ∧ s.halted = false ∧ first = false ∧ mayGo s = false ∧
      beforeTick mayGo first s = some (endCall .vetoed s)) ∨
    (s.fault = none ∧ s.halted = false ∧ (∃ mi, currentSlot s = some mi) ∧ (first = true ∨ mayGo s = true) ∧
      beforeTick mayGo first s = none) := by
  unfold beforeTick
  cases hf : s.fault with
  | some f => exact .inl ⟨f, rfl, rfl⟩
  | none => cases s.halted <;> cases currentSlot s <;> cases first <;> cases mayGo s <;> simp

/-- Everything the tick of a call can lead to (R231, R246). -/
theorem tickThen_cases (goOn : State → CallReport) (s : State) :
    (∃ t, step s = .next t ∧ t.fault = none ∧ tickThen goOn s = goOn t) ∨
    (∃ t f, step s = .next t ∧ t.fault = some f ∧ tickThen goOn s = endCall (.faulted f) t) ∨
    (∃ f, step s = .fault (.reported f) ∧ tickThen goOn s = endCall (.faulted f) s) ∨
    (step s = .fault .awaitingInput ∧ tickThen goOn s = endCall .stuck s) ∨
    (∃ r, step s = .refused r ∧ tickThen goOn s = endCall .stuck s) := by
  unfold tickThen
  cases hs : step s with
  | next t => cases hf : t.fault with
    | none => exact .inl ⟨t, rfl, hf, by simp [hf]⟩
    | some f => exact .inr (.inl ⟨t, f, rfl, hf, by simp [hf]⟩)
  | fault x => cases x <;> simp
  | refused r => simp

end Sys2Proof.Machine
end

