-- ==== Sys2Proof/Laws/Memory.lean ====
section
/-! SUPPORT. The laws of main memory, of the control store and of the input stream: read after write, the canonical form is kept, equal reads mean
equal memories, and byte lanes against words (20_memory.md R66). -/

namespace Sys2Proof.Machine

/-- All addresses of a memory lie above `a`. -/
def Above (a : Nat) (m : Memory) : Prop := ∀ x ∈ m, a < x.1

/-- The canonical form, taken apart. -/
theorem wf_iff (m : Memory) :
    Memory.wf m = true ↔ m.Pairwise (fun x y => x.1 < y.1) ∧ ∀ x ∈ m, x.2 ≠ unlistedByte := by
  simp [Memory.wf]

theorem wf_cons (a : Nat) (b : Byte) (m : Memory) :
    Memory.wf ((a, b) :: m) = true ↔ b ≠ unlistedByte ∧ Above a m ∧ Memory.wf m = true := by
  simp only [wf_iff, List.pairwise_cons, List.mem_cons, forall_eq_or_imp, Above]
  tauto

theorem readByte_above {a : Nat} {m : Memory} (h : Above a m) : readByte m a = unlistedByte := by
  induction m with
  | nil => rfl
  | cons x m ih =>
    have h1 : a < x.1 := h x (by simp)
    have h2 : Above a m := fun y hy => h y (by simp [hy])
    simp [readByte, Nat.ne_of_lt h1, ih h2]

theorem readByte_consCell (a : Nat) (b : Byte) (m : Memory) (h : Above a m) (ba : Nat) :
    readByte (consCell a b m) ba = if ba = a then b else readByte m ba := by
  unfold consCell
  split
  · next hb =>
    split
    · next he => rw [he, hb, readByte_above h]
    · rfl
  · rfl

theorem above_consCell {a c : Nat} {b : Byte} {m : Memory} (hc : c < a) (h : Above c m) : Above c (consCell a b m) := by
  unfold consCell
  split
  · exact h
  · intro x hx
    rcases List.mem_cons.mp hx with rfl | hx
    · exact hc
    · exact h x hx

theorem above_mono {a c : Nat} {m : Memory} (hc : c < a) (h : Above a m) : Above c m := fun x hx => Nat.lt_trans hc (h x hx)

theorem above_writeByte {c ba : Nat} {v : Byte} {m : Memory} (hc : c < ba) (h : Above c m) :
    Above c (writeByte m ba v) := by
  induction m with
  | nil => exact above_consCell hc h
  | cons x m ih =>
    have hx : c < x.1 := h x (by simp)
    have hm : Above c m := fun y hy => h y (by simp [hy])
    simp only [writeByte]
    split
    · exact above_consCell hc h
    · split
      · exact above_consCell hc hm
      · intro y hy
        rcases List.mem_cons.mp hy with rfl | hy
        · exact hx
        · exact ih hm y hy

theorem wf_consCell {a : Nat} {b : Byte} {m : Memory} (ha : Above a m) (h : Memory.wf m = true) :
    Memory.wf (consCell a b m) = true := by
  unfold consCell
  split
  · exact h
  · next hb => exact (wf_cons a b m).mpr ⟨hb, ha, h⟩

/-- Writing a byte keeps the canonical form. -/
theorem wf_writeByte {m : Memory} (h : Memory.wf m = true) (ba : Nat) (v : Byte) : Memory.wf (writeByte m ba v) = true := by
  induction m with
  | nil => exact wf_consCell (by simp [Above]) h
  | cons x m ih =>
    obtain ⟨a, b⟩ := x
    obtain ⟨hb, ha, hm⟩ := (wf_cons a b m).mp h
    simp only [writeByte]
    split
    · next hlt =>
      refine wf_consCell ?_ h
      intro y hy
      rcases List.mem_cons.mp hy with rfl | hy
      · exact hlt
      · exact Nat.lt_trans hlt (ha y hy)
    · split
      · next he => exact wf_consCell (he ▸ ha) hm
      · next h1 h2 => exact (wf_cons a b _).mpr ⟨hb, above_writeByte (by omega) ha, ih hm⟩

/-- Reading a byte after writing one. -/
theorem readByte_writeByte {m : Memory} (h : Memory.wf m = true) (ba : Nat) (v : Byte) (x : Nat) :
    readByte (writeByte m ba v) x = if x = ba then v else readByte m x := by
  induction m with
  | nil => exact readByte_consCell ba v [] (by simp [Above]) x
  | cons c m ih =>
    obtain ⟨a, b⟩ := c
    obtain ⟨hb, ha, hm⟩ := (wf_cons a b m).mp h
    simp only [writeByte]
    split
    · next hlt =>
      refine readByte_consCell ba v _ ?_ x
      intro y hy
      rcases List.mem_cons.mp hy with rfl | hy
      · exact hlt
      · exact Nat.lt_trans hlt (ha y hy)
    · split
      · next he =>
        subst he
        rw [readByte_consCell ba v m ha x]
        simp only [readByte]
        split <;> rfl
      · next h1 h2 =>
        simp only [readByte, ih hm]
        split
        · next hx => subst hx; simp [Ne.symm h2]
        · rfl

/-- Two canonical memories that read alike are equal. -/
theorem ext_of_wf {m m' : Memory} (h : Memory.wf m = true) (h' : Memory.wf m' = true)
    (he : ∀ a, readByte m a = readByte m' a) : m = m' := by
  induction m generalizing m' with
  | nil =>
    cases m' with
    | nil => rfl
    | cons c m' =>
      obtain ⟨a, b⟩ := c
      have := he a
      simp [readByte] at this
      exact absurd this.symm ((wf_cons a b m').mp h').1
  | cons c m ih =>
    obtain ⟨a, b⟩ := c
    obtain ⟨hb, ha, hm⟩ := (wf_cons a b m).mp h
    cases m' with
    | nil =>
      have := he a
      simp [readByte] at this
      exact absurd this hb
    | cons c' m' =>
      obtain ⟨a', b'⟩ := c'
      obtain ⟨hb', ha', hm'⟩ := (wf_cons a' b' m').mp h'
      have haa : a = a' := by
        rcases Nat.lt_trichotomy a a' with hlt | heq | hgt
        · have := he a
          rw [readByte_above (m := (a', b') :: m')] at this
          · simp [readByte] at this; exact absurd this hb
          · intro y hy
            rcases List.mem_cons.mp hy with rfl | hy
            · exact hlt
            · exact Nat.lt_trans hlt (ha' y hy)
        · exact heq
        · have := he a'
          rw [readByte_above (m := (a, b) :: m)] at this
          · simp [readByte] at this; exact absurd this.symm hb'
          · intro y hy
            rcases List.mem_cons.mp hy with rfl | hy
            · exact hgt
            · exact Nat.lt_trans hgt (ha y hy)
      subst haa
      have hbb : b = b' := by simpa [readByte] using he a
      subst hbb
      have : m = m' := ih hm hm' (fun x => by
        by_cases hx : x = a
        · subst hx; rw [readByte_above ha, readByte_above ha']
        · simpa [readByte, hx] using he x)
      rw [this]

/-! ## Words -/

/-- A word write keeps the canonical form. -/
theorem wf_writeWord {m : Memory} (h : Memory.wf m = true) (w : Nat) (v : Word) : Memory.wf (writeWord m w v) = true :=
  wf_writeByte (wf_writeByte (wf_writeByte (wf_writeByte h _ _) _ _) _ _) _ _

/-- Reading a byte after writing a word: the lane inside the word, the old byte outside it (R66). -/
theorem readByte_writeWord {m : Memory} (h : Memory.wf m = true) (w : Nat) (v : Word) (x : Nat) :
    readByte (writeWord m w v) x = if x / 4 = w then lane v (x % 4) else readByte m x := by
  have h1 := wf_writeByte h (4 * w) (lane v 0)
  have h2 := wf_writeByte h1 (4 * w + 1) (lane v 1)
  have h3 := wf_writeByte h2 (4 * w + 2) (lane v 2)
  unfold writeWord
  rw [readByte_writeByte h3, readByte_writeByte h2, readByte_writeByte h1, readByte_writeByte h]
  by_cases hx : x / 4 = w
  · rw [if_pos hx]
    have : x % 4 = 0 ∨ x % 4 = 1 ∨ x % 4 = 2 ∨ x % 4 = 3 := by omega
    rcases this with hk | hk | hk | hk <;> rw [hk]
    · rw [if_neg (by omega), if_neg (by omega), if_neg (by omega), if_pos (by omega)]
    · rw [if_neg (by omega), if_neg (by omega), if_pos (by omega)]
    · rw [if_neg (by omega), if_pos (by omega)]
    · rw [if_pos (by omega)]
  · rw [if_neg hx, if_neg (by omega), if_neg (by omega), if_neg (by omega), if_neg (by omega)]

theorem mem_consCell {a : Nat} {b : Byte} {m : Memory} {x : Host.Cell} (h : x ∈ consCell a b m) : x.1 = a ∨ x ∈ m := by
  unfold consCell at h
  split at h
  · exact .inr h
  · rcases List.mem_cons.mp h with rfl | h
    · exact .inl rfl
    · exact .inr h

/-- A cell of a memory after a byte write is the written one or an old one. -/
theorem mem_writeByte {ba : Nat} {v : Byte} {m : Memory} {x : Host.Cell} (h : x ∈ writeByte m ba v) : x.1 = ba ∨ x ∈ m := by
  induction m with
  | nil => exact mem_consCell h
  | cons c m ih =>
    simp only [writeByte] at h
    split at h
    · exact mem_consCell h
    · split at h
      · exact (mem_consCell h).imp_right (List.mem_cons_of_mem _)
      · rcases List.mem_cons.mp h with rfl | h
        · exact .inr (List.mem_cons_self ..)
        · exact (ih h).imp_right (List.mem_cons_of_mem _)

/-- A word write inside the address space keeps every cell inside it. -/
theorem writeWord_bound {limit w : Nat} {m : Memory} {v : Word} (h : ∀ x ∈ m, x.1 < limit) (hw : 4 * w + 3 < limit) :
    ∀ x ∈ writeWord m w v, x.1 < limit := by
  intro x hx
  rcases mem_writeByte hx with e | hx
  · omega
  rcases mem_writeByte hx with e | hx
  · omega
  rcases mem_writeByte hx with e | hx
  · omega
  rcases mem_writeByte hx with e | hx
  · omega
  exact h x hx

/-! ## The control store -/

/-- Reading a slot after placing one. -/
theorem slotAt_placeSlot (cs : ControlStore) (a : MAddr) (mi : MicroInstr) : slotAt (placeSlot cs a mi) a = some mi := by
  induction cs with
  | nil => simp [placeSlot, slotAt]
  | cons c cs ih =>
    simp only [placeSlot]
    split
    · simp [slotAt]
    · split
      · next h => simp [slotAt, h]
      · next h => simp [slotAt, h, ih]

/-! ## The input stream -/

@[simp] theorem nextInput_cons (c : Byte) (rest : List Byte) (e : Option Nat) :
    nextInput ⟨c :: rest, e⟩ = some (c, ⟨rest, e⟩) := rfl

@[simp] theorem nextInput_endless (k : Nat) : nextInput ⟨[], some k⟩ = some (Config.endlessInput k, ⟨[], some (k + 1)⟩) := rfl

/-- Only the empty sequence has no next byte (R78). -/
theorem nextInput_eq_none (q : InputSeq) : nextInput q = none ↔ q = ⟨[], none⟩ := by
  rcases q with ⟨_ | _, _ | _⟩ <;> simp [nextInput]

@[simp] theorem extendInput_finite (bs queue : List Byte) : extendInput bs ⟨queue, none⟩ = ⟨queue ++ bs, none⟩ := rfl

@[simp] theorem extendInput_endless (bs queue : List Byte) (k : Nat) : extendInput bs ⟨queue, some k⟩ = ⟨queue, some k⟩ := rfl

end Sys2Proof.Machine
end

