-- ==== Sys2Proof/Laws/PerInstr.lean ====
section
/-! SUPPORT. One statement about every row of the opcode table as syntax, proved row by row: the word the encoder gives for a row
is selected by that row's mask and match (R133), and decoding the word finds the row among those it selects (R105). -/

namespace Sys2Proof.Laws.RowSelection

/-- The encoder, the table's mask and match, and the decoder agree on the row `i`. -/
def Statement (i : Instr) : Prop :=
  i.selectedBy Layout.textbook (encode i) = true ∧ i ∈ (decodeWord Layout.textbook (encode i)).ops BSel.textbook

theorem aluAnd : Statement .aluAnd := by unfold Statement; decide
theorem aluOr : Statement .aluOr := by unfold Statement; decide
theorem aluNotb : Statement .aluNotb := by unfold Statement; decide
theorem aluSum : Statement .aluSum := by unfold Statement; decide
theorem ena : Statement .ena := by unfold Statement; decide
theorem enb : Statement .enb := by unfold Statement; decide
theorem inva : Statement .inva := by unfold Statement; decide
theorem inc : Statement .inc := by unfold Statement; decide
theorem shPass : Statement .shPass := by unfold Statement; decide
theorem sll8 : Statement .sll8 := by unfold Statement; decide
theorem sra1 : Statement .sra1 := by unfold Statement; decide
theorem shIllegal : Statement .shIllegal := by unfold Statement; decide
theorem cH : Statement .cH := by unfold Statement; decide
theorem cOpc : Statement .cOpc := by unfold Statement; decide
theorem cTos : Statement .cTos := by unfold Statement; decide
theorem cCpp : Statement .cCpp := by unfold Statement; decide
theorem cLv : Statement .cLv := by unfold Statement; decide
theorem cSp : Statement .cSp := by unfold Statement; decide
theorem cPc : Statement .cPc := by unfold Statement; decide
theorem cMdr : Statement .cMdr := by unfold Statement; decide
theorem cMar : Statement .cMar := by unfold Statement; decide
theorem bMdr : Statement .bMdr := by unfold Statement; decide
theorem bPc : Statement .bPc := by unfold Statement; decide
theorem bMbr : Statement .bMbr := by unfold Statement; decide
theorem bMbru : Statement .bMbru := by unfold Statement; decide
theorem bSp : Statement .bSp := by unfold Statement; decide
theorem bLv : Statement .bLv := by unfold Statement; decide
theorem bCpp : Statement .bCpp := by unfold Statement; decide
theorem bTos : Statement .bTos := by unfold Statement; decide
theorem bOpc : Statement .bOpc := by unfold Statement; decide
theorem bNone9 : Statement .bNone9 := by unfold Statement; decide
theorem bNone10 : Statement .bNone10 := by unfold Statement; decide
theorem bNone11 : Statement .bNone11 := by unfold Statement; decide
theorem bNone12 : Statement .bNone12 := by unfold Statement; decide
theorem bNone13 : Statement .bNone13 := by unfold Statement; decide
theorem bNone14 : Statement .bNone14 := by unfold Statement; decide
theorem bNone15 : Statement .bNone15 := by unfold Statement; decide
theorem fetch : Statement .fetch := by unfold Statement; decide
theorem read : Statement .read := by unfold Statement; decide
theorem write : Statement .write := by unfold Statement; decide
theorem memIllegal : Statement .memIllegal := by unfold Statement; decide
theorem jmpc : Statement .jmpc := by unfold Statement; decide
theorem jmpn : Statement .jmpn := by unfold Statement; decide
theorem jmpz : Statement .jmpz := by unfold Statement; decide

/-- The word of NEXT is its operand at bits 35:27. -/
theorem encode_nextAddr (addr : MAddr) : encode (.nextAddr addr) = addr.setWidth 36 <<< 27 := by
  simp only [encode, encodeWord, Instr.control, MicroInstr.blank, Layout.textbook, flagAt, Bool.false_eq_true, if_false,
    BitVec.or_zero]
  rw [show (BitVec.setWidth 36 0#4 <<< 0) = 0#36 from rfl, BitVec.or_zero]

theorem addr_of_encode (addr : MAddr) : (encode (.nextAddr addr)).extractLsb' 27 9 = addr := by
  rw [encode_nextAddr]
  apply BitVec.eq_of_getLsbD_eq
  intro i hi
  rw [BitVec.getLsbD_extractLsb', BitVec.getLsbD_shiftLeft, BitVec.getLsbD_setWidth]
  simp [hi, show 27 + i < 36 by omega, show i < 36 by omega]

/-- The operand of NEXT is found again, whatever it is. -/
theorem nextAddr (addr : MAddr) : Statement (.nextAddr addr) := by
  constructor
  · unfold Instr.selectedBy Instr.mask Instr.pattern
    simp only [show Layout.textbook.addr = 27 from rfl, addr_of_encode, BitVec.and_zero, beq_self_eq_true, Bool.and_self]
  · refine List.mem_append_right _ ?_
    rw [MicroInstr.nextOps, show (decodeWord Layout.textbook (encode (.nextAddr addr))).addr = addr from addr_of_encode addr]
    exact List.mem_cons_self ..

end Sys2Proof.Laws.RowSelection
end

