-- ==== Sys2Proof/Laws/State.lean ====
section
/-! SUPPORT. For each record update of the machine, what it does to each field of the state, so that no proof unfolds an update
again. Every lemma is true by definition. -/

namespace Sys2Proof.Machine

@[simp] theorem writeReg_cfg (r : Reg) (v : Word) (s : State) : (writeReg s r v).cfg = s.cfg := rfl
@[simp] theorem writeReg_cs (r : Reg) (v : Word) (s : State) : (writeReg s r v).cs = s.cs := rfl
@[simp] theorem writeReg_regs (r : Reg) (v : Word) (s : State) : (writeReg s r v).regs = s.regs.set r v := rfl
@[simp] theorem writeReg_mpc (r : Reg) (v : Word) (s : State) : (writeReg s r v).mpc = s.mpc := rfl
@[simp] theorem writeReg_prevMpc (r : Reg) (v : Word) (s : State) : (writeReg s r v).prevMpc = s.prevMpc := rfl
@[simp] theorem writeReg_mir (r : Reg) (v : Word) (s : State) : (writeReg s r v).mir = s.mir := rfl
@[simp] theorem writeReg_ticks (r : Reg) (v : Word) (s : State) : (writeReg s r v).ticks = s.ticks := rfl
@[simp] theorem writeReg_lastMacroAddr (r : Reg) (v : Word) (s : State) : (writeReg s r v).lastMacroAddr = s.lastMacroAddr := rfl
@[simp] theorem writeReg_halted (r : Reg) (v : Word) (s : State) : (writeReg s r v).halted = s.halted := rfl
@[simp] theorem writeReg_fault (r : Reg) (v : Word) (s : State) : (writeReg s r v).fault = s.fault := rfl
@[simp] theorem writeReg_alu (r : Reg) (v : Word) (s : State) : (writeReg s r v).alu = s.alu := rfl
@[simp] theorem writeReg_shOut (r : Reg) (v : Word) (s : State) : (writeReg s r v).shOut = s.shOut := rfl
@[simp] theorem writeReg_mpcc (r : Reg) (v : Word) (s : State) : (writeReg s r v).mpcc = s.mpcc := rfl
@[simp] theorem writeReg_memu (r : Reg) (v : Word) (s : State) : (writeReg s r v).memu = s.memu := rfl
@[simp] theorem writeReg_mem (r : Reg) (v : Word) (s : State) : (writeReg s r v).mem = s.mem := rfl
@[simp] theorem writeReg_output (r : Reg) (v : Word) (s : State) : (writeReg s r v).output = s.output := rfl
@[simp] theorem writeReg_input (r : Reg) (v : Word) (s : State) : (writeReg s r v).input = s.input := rfl
@[simp] theorem writeReg_breakpoints (r : Reg) (v : Word) (s : State) : (writeReg s r v).breakpoints = s.breakpoints := rfl
@[simp] theorem writeReg_nextBreakpointId (r : Reg) (v : Word) (s : State) : (writeReg s r v).nextBreakpointId = s.nextBreakpointId := rfl
@[simp] theorem writeReg_tickDone (r : Reg) (v : Word) (s : State) : (writeReg s r v).tickDone = s.tickDone := rfl
@[simp] theorem writeReg_draws (r : Reg) (v : Word) (s : State) : (writeReg s r v).draws = s.draws := rfl

@[simp] theorem raise_cfg (f : FaultRecord) (s : State) : (raise f s).cfg = s.cfg := rfl
@[simp] theorem raise_cs (f : FaultRecord) (s : State) : (raise f s).cs = s.cs := rfl
@[simp] theorem raise_regs (f : FaultRecord) (s : State) : (raise f s).regs = s.regs := rfl
@[simp] theorem raise_mpc (f : FaultRecord) (s : State) : (raise f s).mpc = s.mpc := rfl
@[simp] theorem raise_prevMpc (f : FaultRecord) (s : State) : (raise f s).prevMpc = s.prevMpc := rfl
@[simp] theorem raise_mir (f : FaultRecord) (s : State) : (raise f s).mir = s.mir := rfl
@[simp] theorem raise_ticks (f : FaultRecord) (s : State) : (raise f s).ticks = s.ticks := rfl
@[simp] theorem raise_lastMacroAddr (f : FaultRecord) (s : State) : (raise f s).lastMacroAddr = s.lastMacroAddr := rfl
@[simp] theorem raise_halted (f : FaultRecord) (s : State) : (raise f s).halted = s.halted := rfl
@[simp] theorem raise_fault (f : FaultRecord) (s : State) : (raise f s).fault = some f := rfl
@[simp] theorem raise_alu (f : FaultRecord) (s : State) : (raise f s).alu = s.alu := rfl
@[simp] theorem raise_shOut (f : FaultRecord) (s : State) : (raise f s).shOut = s.shOut := rfl
@[simp] theorem raise_mpcc (f : FaultRecord) (s : State) : (raise f s).mpcc = s.mpcc := rfl
@[simp] theorem raise_memu (f : FaultRecord) (s : State) : (raise f s).memu = s.memu := rfl
@[simp] theorem raise_mem (f : FaultRecord) (s : State) : (raise f s).mem = s.mem := rfl
@[simp] theorem raise_output (f : FaultRecord) (s : State) : (raise f s).output = s.output := rfl
@[simp] theorem raise_input (f : FaultRecord) (s : State) : (raise f s).input = s.input := rfl
@[simp] theorem raise_breakpoints (f : FaultRecord) (s : State) : (raise f s).breakpoints = s.breakpoints := rfl
@[simp] theorem raise_nextBreakpointId (f : FaultRecord) (s : State) : (raise f s).nextBreakpointId = s.nextBreakpointId := rfl
@[simp] theorem raise_tickDone (f : FaultRecord) (s : State) : (raise f s).tickDone = s.tickDone := rfl
@[simp] theorem raise_draws (f : FaultRecord) (s : State) : (raise f s).draws = s.draws := rfl

@[simp] theorem beginTick_cfg (mi : MicroInstr) (s : State) : (beginTick mi s).cfg = s.cfg := rfl
@[simp] theorem beginTick_cs (mi : MicroInstr) (s : State) : (beginTick mi s).cs = s.cs := rfl
@[simp] theorem beginTick_regs (mi : MicroInstr) (s : State) : (beginTick mi s).regs = s.regs := rfl
@[simp] theorem beginTick_mpc (mi : MicroInstr) (s : State) : (beginTick mi s).mpc = s.mpc := rfl
@[simp] theorem beginTick_prevMpc (mi : MicroInstr) (s : State) : (beginTick mi s).prevMpc = s.prevMpc := rfl
@[simp] theorem beginTick_mir (mi : MicroInstr) (s : State) : (beginTick mi s).mir = some mi := rfl
@[simp] theorem beginTick_ticks (mi : MicroInstr) (s : State) : (beginTick mi s).ticks = s.ticks := rfl
@[simp] theorem beginTick_lastMacroAddr (mi : MicroInstr) (s : State) : (beginTick mi s).lastMacroAddr = s.lastMacroAddr := rfl
@[simp] theorem beginTick_halted (mi : MicroInstr) (s : State) : (beginTick mi s).halted = s.halted := rfl
@[simp] theorem beginTick_fault (mi : MicroInstr) (s : State) : (beginTick mi s).fault = s.fault := rfl
@[simp] theorem beginTick_alu (mi : MicroInstr) (s : State) : (beginTick mi s).alu = { s.alu with a := s.regs.h, b := rowlessB s.cfg.bsel mi.b s.regs, sig := ⟨false, false, false, false, false, false⟩ } := rfl
@[simp] theorem beginTick_shOut (mi : MicroInstr) (s : State) : (beginTick mi s).shOut = s.shOut := rfl
@[simp] theorem beginTick_mpcc (mi : MicroInstr) (s : State) : (beginTick mi s).mpcc = s.mpcc := rfl
@[simp] theorem beginTick_memu (mi : MicroInstr) (s : State) : (beginTick mi s).memu = s.memu := rfl
@[simp] theorem beginTick_mem (mi : MicroInstr) (s : State) : (beginTick mi s).mem = s.mem := rfl
@[simp] theorem beginTick_output (mi : MicroInstr) (s : State) : (beginTick mi s).output = s.output := rfl
@[simp] theorem beginTick_input (mi : MicroInstr) (s : State) : (beginTick mi s).input = s.input := rfl
@[simp] theorem beginTick_breakpoints (mi : MicroInstr) (s : State) : (beginTick mi s).breakpoints = s.breakpoints := rfl
@[simp] theorem beginTick_nextBreakpointId (mi : MicroInstr) (s : State) : (beginTick mi s).nextBreakpointId = s.nextBreakpointId := rfl
@[simp] theorem beginTick_tickDone (mi : MicroInstr) (s : State) : (beginTick mi s).tickDone = s.tickDone := rfl
@[simp] theorem beginTick_draws (mi : MicroInstr) (s : State) : (beginTick mi s).draws = s.draws := rfl

@[simp] theorem driveB_cfg (v : Word) (s : State) : (driveB v s).cfg = s.cfg := rfl
@[simp] theorem driveB_cs (v : Word) (s : State) : (driveB v s).cs = s.cs := rfl
@[simp] theorem driveB_regs (v : Word) (s : State) : (driveB v s).regs = s.regs := rfl
@[simp] theorem driveB_mpc (v : Word) (s : State) : (driveB v s).mpc = s.mpc := rfl
@[simp] theorem driveB_prevMpc (v : Word) (s : State) : (driveB v s).prevMpc = s.prevMpc := rfl
@[simp] theorem driveB_mir (v : Word) (s : State) : (driveB v s).mir = s.mir := rfl
@[simp] theorem driveB_ticks (v : Word) (s : State) : (driveB v s).ticks = s.ticks := rfl
@[simp] theorem driveB_lastMacroAddr (v : Word) (s : State) : (driveB v s).lastMacroAddr = s.lastMacroAddr := rfl
@[simp] theorem driveB_halted (v : Word) (s : State) : (driveB v s).halted = s.halted := rfl
@[simp] theorem driveB_fault (v : Word) (s : State) : (driveB v s).fault = s.fault := rfl
@[simp] theorem driveB_alu (v : Word) (s : State) : (driveB v s).alu = { s.alu with b := v } := rfl
@[simp] theorem driveB_shOut (v : Word) (s : State) : (driveB v s).shOut = s.shOut := rfl
@[simp] theorem driveB_mpcc (v : Word) (s : State) : (driveB v s).mpcc = s.mpcc := rfl
@[simp] theorem driveB_memu (v : Word) (s : State) : (driveB v s).memu = s.memu := rfl
@[simp] theorem driveB_mem (v : Word) (s : State) : (driveB v s).mem = s.mem := rfl
@[simp] theorem driveB_output (v : Word) (s : State) : (driveB v s).output = s.output := rfl
@[simp] theorem driveB_input (v : Word) (s : State) : (driveB v s).input = s.input := rfl
@[simp] theorem driveB_breakpoints (v : Word) (s : State) : (driveB v s).breakpoints = s.breakpoints := rfl
@[simp] theorem driveB_nextBreakpointId (v : Word) (s : State) : (driveB v s).nextBreakpointId = s.nextBreakpointId := rfl
@[simp] theorem driveB_tickDone (v : Word) (s : State) : (driveB v s).tickDone = s.tickDone := rfl
@[simp] theorem driveB_draws (v : Word) (s : State) : (driveB v s).draws = s.draws := rfl

@[simp] theorem setLines_cfg (g : AluSig) (s : State) : (setLines g s).cfg = s.cfg := rfl
@[simp] theorem setLines_cs (g : AluSig) (s : State) : (setLines g s).cs = s.cs := rfl
@[simp] theorem setLines_regs (g : AluSig) (s : State) : (setLines g s).regs = s.regs := rfl
@[simp] theorem setLines_mpc (g : AluSig) (s : State) : (setLines g s).mpc = s.mpc := rfl
@[simp] theorem setLines_prevMpc (g : AluSig) (s : State) : (setLines g s).prevMpc = s.prevMpc := rfl
@[simp] theorem setLines_mir (g : AluSig) (s : State) : (setLines g s).mir = s.mir := rfl
@[simp] theorem setLines_ticks (g : AluSig) (s : State) : (setLines g s).ticks = s.ticks := rfl
@[simp] theorem setLines_lastMacroAddr (g : AluSig) (s : State) : (setLines g s).lastMacroAddr = s.lastMacroAddr := rfl
@[simp] theorem setLines_halted (g : AluSig) (s : State) : (setLines g s).halted = s.halted := rfl
@[simp] theorem setLines_fault (g : AluSig) (s : State) : (setLines g s).fault = s.fault := rfl
@[simp] theorem setLines_alu (g : AluSig) (s : State) : (setLines g s).alu = { s.alu with sig := g } := rfl
@[simp] theorem setLines_shOut (g : AluSig) (s : State) : (setLines g s).shOut = s.shOut := rfl
@[simp] theorem setLines_mpcc (g : AluSig) (s : State) : (setLines g s).mpcc = s.mpcc := rfl
@[simp] theorem setLines_memu (g : AluSig) (s : State) : (setLines g s).memu = s.memu := rfl
@[simp] theorem setLines_mem (g : AluSig) (s : State) : (setLines g s).mem = s.mem := rfl
@[simp] theorem setLines_output (g : AluSig) (s : State) : (setLines g s).output = s.output := rfl
@[simp] theorem setLines_input (g : AluSig) (s : State) : (setLines g s).input = s.input := rfl
@[simp] theorem setLines_breakpoints (g : AluSig) (s : State) : (setLines g s).breakpoints = s.breakpoints := rfl
@[simp] theorem setLines_nextBreakpointId (g : AluSig) (s : State) : (setLines g s).nextBreakpointId = s.nextBreakpointId := rfl
@[simp] theorem setLines_tickDone (g : AluSig) (s : State) : (setLines g s).tickDone = s.tickDone := rfl
@[simp] theorem setLines_draws (g : AluSig) (s : State) : (setLines g s).draws = s.draws := rfl

@[simp] theorem runAlu_cfg (f0 f1 : Bool) (s : State) : (runAlu f0 f1 s).cfg = s.cfg := rfl
@[simp] theorem runAlu_cs (f0 f1 : Bool) (s : State) : (runAlu f0 f1 s).cs = s.cs := rfl
@[simp] theorem runAlu_regs (f0 f1 : Bool) (s : State) : (runAlu f0 f1 s).regs = s.regs := rfl
@[simp] theorem runAlu_mpc (f0 f1 : Bool) (s : State) : (runAlu f0 f1 s).mpc = s.mpc := rfl
@[simp] theorem runAlu_prevMpc (f0 f1 : Bool) (s : State) : (runAlu f0 f1 s).prevMpc = s.prevMpc := rfl
@[simp] theorem runAlu_mir (f0 f1 : Bool) (s : State) : (runAlu f0 f1 s).mir = s.mir := rfl
@[simp] theorem runAlu_ticks (f0 f1 : Bool) (s : State) : (runAlu f0 f1 s).ticks = s.ticks := rfl
@[simp] theorem runAlu_lastMacroAddr (f0 f1 : Bool) (s : State) : (runAlu f0 f1 s).lastMacroAddr = s.lastMacroAddr := rfl
@[simp] theorem runAlu_halted (f0 f1 : Bool) (s : State) : (runAlu f0 f1 s).halted = s.halted := rfl
@[simp] theorem runAlu_fault (f0 f1 : Bool) (s : State) : (runAlu f0 f1 s).fault = s.fault := rfl
@[simp] theorem runAlu_shOut (f0 f1 : Bool) (s : State) : (runAlu f0 f1 s).shOut = s.shOut := rfl
@[simp] theorem runAlu_mpcc (f0 f1 : Bool) (s : State) : (runAlu f0 f1 s).mpcc = s.mpcc := rfl
@[simp] theorem runAlu_memu (f0 f1 : Bool) (s : State) : (runAlu f0 f1 s).memu = s.memu := rfl
@[simp] theorem runAlu_mem (f0 f1 : Bool) (s : State) : (runAlu f0 f1 s).mem = s.mem := rfl
@[simp] theorem runAlu_output (f0 f1 : Bool) (s : State) : (runAlu f0 f1 s).output = s.output := rfl
@[simp] theorem runAlu_input (f0 f1 : Bool) (s : State) : (runAlu f0 f1 s).input = s.input := rfl
@[simp] theorem runAlu_breakpoints (f0 f1 : Bool) (s : State) : (runAlu f0 f1 s).breakpoints = s.breakpoints := rfl
@[simp] theorem runAlu_nextBreakpointId (f0 f1 : Bool) (s : State) : (runAlu f0 f1 s).nextBreakpointId = s.nextBreakpointId := rfl
@[simp] theorem runAlu_tickDone (f0 f1 : Bool) (s : State) : (runAlu f0 f1 s).tickDone = s.tickDone := rfl
@[simp] theorem runAlu_draws (f0 f1 : Bool) (s : State) : (runAlu f0 f1 s).draws = s.draws := rfl

@[simp] theorem driveC_cfg (v : Word) (s : State) : (driveC v s).cfg = s.cfg := rfl
@[simp] theorem driveC_cs (v : Word) (s : State) : (driveC v s).cs = s.cs := rfl
@[simp] theorem driveC_regs (v : Word) (s : State) : (driveC v s).regs = s.regs := rfl
@[simp] theorem driveC_mpc (v : Word) (s : State) : (driveC v s).mpc = s.mpc := rfl
@[simp] theorem driveC_prevMpc (v : Word) (s : State) : (driveC v s).prevMpc = s.prevMpc := rfl
@[simp] theorem driveC_mir (v : Word) (s : State) : (driveC v s).mir = s.mir := rfl
@[simp] theorem driveC_ticks (v : Word) (s : State) : (driveC v s).ticks = s.ticks := rfl
@[simp] theorem driveC_lastMacroAddr (v : Word) (s : State) : (driveC v s).lastMacroAddr = s.lastMacroAddr := rfl
@[simp] theorem driveC_halted (v : Word) (s : State) : (driveC v s).halted = s.halted := rfl
@[simp] theorem driveC_fault (v : Word) (s : State) : (driveC v s).fault = s.fault := rfl
@[simp] theorem driveC_alu (v : Word) (s : State) : (driveC v s).alu = s.alu := rfl
@[simp] theorem driveC_shOut (v : Word) (s : State) : (driveC v s).shOut = v := rfl
@[simp] theorem driveC_mpcc (v : Word) (s : State) : (driveC v s).mpcc = s.mpcc := rfl
@[simp] theorem driveC_memu (v : Word) (s : State) : (driveC v s).memu = s.memu := rfl
@[simp] theorem driveC_mem (v : Word) (s : State) : (driveC v s).mem = s.mem := rfl
@[simp] theorem driveC_output (v : Word) (s : State) : (driveC v s).output = s.output := rfl
@[simp] theorem driveC_input (v : Word) (s : State) : (driveC v s).input = s.input := rfl
@[simp] theorem driveC_breakpoints (v : Word) (s : State) : (driveC v s).breakpoints = s.breakpoints := rfl
@[simp] theorem driveC_nextBreakpointId (v : Word) (s : State) : (driveC v s).nextBreakpointId = s.nextBreakpointId := rfl
@[simp] theorem driveC_tickDone (v : Word) (s : State) : (driveC v s).tickDone = s.tickDone := rfl
@[simp] theorem driveC_draws (v : Word) (s : State) : (driveC v s).draws = s.draws := rfl

@[simp] theorem latchFlags_cfg (s : State) : (latchFlags s).cfg = s.cfg := rfl
@[simp] theorem latchFlags_cs (s : State) : (latchFlags s).cs = s.cs := rfl
@[simp] theorem latchFlags_regs (s : State) : (latchFlags s).regs = s.regs := rfl
@[simp] theorem latchFlags_mpc (s : State) : (latchFlags s).mpc = s.mpc := rfl
@[simp] theorem latchFlags_prevMpc (s : State) : (latchFlags s).prevMpc = s.prevMpc := rfl
@[simp] theorem latchFlags_mir (s : State) : (latchFlags s).mir = s.mir := rfl
@[simp] theorem latchFlags_ticks (s : State) : (latchFlags s).ticks = s.ticks := rfl
@[simp] theorem latchFlags_lastMacroAddr (s : State) : (latchFlags s).lastMacroAddr = s.lastMacroAddr := rfl
@[simp] theorem latchFlags_halted (s : State) : (latchFlags s).halted = s.halted := rfl
@[simp] theorem latchFlags_fault (s : State) : (latchFlags s).fault = s.fault := rfl
@[simp] theorem latchFlags_alu (s : State) : (latchFlags s).alu = s.alu := rfl
@[simp] theorem latchFlags_shOut (s : State) : (latchFlags s).shOut = s.shOut := rfl
@[simp] theorem latchFlags_mpcc (s : State) : (latchFlags s).mpcc = { s.mpcc with n := s.alu.n, z := s.alu.z } := rfl
@[simp] theorem latchFlags_memu (s : State) : (latchFlags s).memu = s.memu := rfl
@[simp] theorem latchFlags_mem (s : State) : (latchFlags s).mem = s.mem := rfl
@[simp] theorem latchFlags_output (s : State) : (latchFlags s).output = s.output := rfl
@[simp] theorem latchFlags_input (s : State) : (latchFlags s).input = s.input := rfl
@[simp] theorem latchFlags_breakpoints (s : State) : (latchFlags s).breakpoints = s.breakpoints := rfl
@[simp] theorem latchFlags_nextBreakpointId (s : State) : (latchFlags s).nextBreakpointId = s.nextBreakpointId := rfl
@[simp] theorem latchFlags_tickDone (s : State) : (latchFlags s).tickDone = s.tickDone := rfl
@[simp] theorem latchFlags_draws (s : State) : (latchFlags s).draws = s.draws := rfl

@[simp] theorem stageMem_cfg (g : MemSig) (s : State) : (stageMem g s).cfg = s.cfg := rfl
@[simp] theorem stageMem_cs (g : MemSig) (s : State) : (stageMem g s).cs = s.cs := rfl
@[simp] theorem stageMem_regs (g : MemSig) (s : State) : (stageMem g s).regs = s.regs := rfl
@[simp] theorem stageMem_mpc (g : MemSig) (s : State) : (stageMem g s).mpc = s.mpc := rfl
@[simp] theorem stageMem_prevMpc (g : MemSig) (s : State) : (stageMem g s).prevMpc = s.prevMpc := rfl
@[simp] theorem stageMem_mir (g : MemSig) (s : State) : (stageMem g s).mir = s.mir := rfl
@[simp] theorem stageMem_ticks (g : MemSig) (s : State) : (stageMem g s).ticks = s.ticks := rfl
@[simp] theorem stageMem_lastMacroAddr (g : MemSig) (s : State) : (stageMem g s).lastMacroAddr = s.lastMacroAddr := rfl
@[simp] theorem stageMem_halted (g : MemSig) (s : State) : (stageMem g s).halted = s.halted := rfl
@[simp] theorem stageMem_fault (g : MemSig) (s : State) : (stageMem g s).fault = s.fault := rfl
@[simp] theorem stageMem_alu (g : MemSig) (s : State) : (stageMem g s).alu = s.alu := rfl
@[simp] theorem stageMem_shOut (g : MemSig) (s : State) : (stageMem g s).shOut = s.shOut := rfl
@[simp] theorem stageMem_mpcc (g : MemSig) (s : State) : (stageMem g s).mpcc = s.mpcc := rfl
@[simp] theorem stageMem_mem (g : MemSig) (s : State) : (stageMem g s).mem = s.mem := rfl
@[simp] theorem stageMem_output (g : MemSig) (s : State) : (stageMem g s).output = s.output := rfl
@[simp] theorem stageMem_input (g : MemSig) (s : State) : (stageMem g s).input = s.input := rfl
@[simp] theorem stageMem_breakpoints (g : MemSig) (s : State) : (stageMem g s).breakpoints = s.breakpoints := rfl
@[simp] theorem stageMem_nextBreakpointId (g : MemSig) (s : State) : (stageMem g s).nextBreakpointId = s.nextBreakpointId := rfl
@[simp] theorem stageMem_tickDone (g : MemSig) (s : State) : (stageMem g s).tickDone = s.tickDone := rfl
@[simp] theorem stageMem_draws (g : MemSig) (s : State) : (stageMem g s).draws = s.draws := rfl

@[simp] theorem steer_cfg (a : MAddr) (s : State) : (steer a s).cfg = s.cfg := rfl
@[simp] theorem steer_cs (a : MAddr) (s : State) : (steer a s).cs = s.cs := rfl
@[simp] theorem steer_regs (a : MAddr) (s : State) : (steer a s).regs = s.regs := rfl
@[simp] theorem steer_mpc (a : MAddr) (s : State) : (steer a s).mpc = a := rfl
@[simp] theorem steer_prevMpc (a : MAddr) (s : State) : (steer a s).prevMpc = s.prevMpc := rfl
@[simp] theorem steer_mir (a : MAddr) (s : State) : (steer a s).mir = s.mir := rfl
@[simp] theorem steer_ticks (a : MAddr) (s : State) : (steer a s).ticks = s.ticks := rfl
@[simp] theorem steer_lastMacroAddr (a : MAddr) (s : State) : (steer a s).lastMacroAddr = s.lastMacroAddr := rfl
@[simp] theorem steer_halted (a : MAddr) (s : State) : (steer a s).halted = s.halted := rfl
@[simp] theorem steer_fault (a : MAddr) (s : State) : (steer a s).fault = s.fault := rfl
@[simp] theorem steer_alu (a : MAddr) (s : State) : (steer a s).alu = s.alu := rfl
@[simp] theorem steer_shOut (a : MAddr) (s : State) : (steer a s).shOut = s.shOut := rfl
@[simp] theorem steer_mpcc (a : MAddr) (s : State) : (steer a s).mpcc = { s.mpcc with out := a } := rfl
@[simp] theorem steer_memu (a : MAddr) (s : State) : (steer a s).memu = s.memu := rfl
@[simp] theorem steer_mem (a : MAddr) (s : State) : (steer a s).mem = s.mem := rfl
@[simp] theorem steer_output (a : MAddr) (s : State) : (steer a s).output = s.output := rfl
@[simp] theorem steer_input (a : MAddr) (s : State) : (steer a s).input = s.input := rfl
@[simp] theorem steer_breakpoints (a : MAddr) (s : State) : (steer a s).breakpoints = s.breakpoints := rfl
@[simp] theorem steer_nextBreakpointId (a : MAddr) (s : State) : (steer a s).nextBreakpointId = s.nextBreakpointId := rfl
@[simp] theorem steer_tickDone (a : MAddr) (s : State) : (steer a s).tickDone = s.tickDone := rfl
@[simp] theorem steer_draws (a : MAddr) (s : State) : (steer a s).draws = s.draws := rfl

@[simp] theorem finishTick_cfg (mi : MicroInstr) (s : State) : (finishTick mi s).cfg = s.cfg := rfl
@[simp] theorem finishTick_cs (mi : MicroInstr) (s : State) : (finishTick mi s).cs = s.cs := rfl
@[simp] theorem finishTick_regs (mi : MicroInstr) (s : State) : (finishTick mi s).regs = s.regs := rfl
@[simp] theorem finishTick_mpc (mi : MicroInstr) (s : State) : (finishTick mi s).mpc = s.mpc := rfl
@[simp] theorem finishTick_prevMpc (mi : MicroInstr) (s : State) : (finishTick mi s).prevMpc = s.prevMpc := rfl
@[simp] theorem finishTick_mir (mi : MicroInstr) (s : State) : (finishTick mi s).mir = s.mir := rfl
@[simp] theorem finishTick_ticks (mi : MicroInstr) (s : State) : (finishTick mi s).ticks = s.ticks + 1 := rfl
@[simp] theorem finishTick_lastMacroAddr (mi : MicroInstr) (s : State) : (finishTick mi s).lastMacroAddr = s.lastMacroAddr := rfl
@[simp] theorem finishTick_halted (mi : MicroInstr) (s : State) : (finishTick mi s).halted = isTerminal mi s := rfl
@[simp] theorem finishTick_fault (mi : MicroInstr) (s : State) : (finishTick mi s).fault = s.fault := rfl
@[simp] theorem finishTick_alu (mi : MicroInstr) (s : State) : (finishTick mi s).alu = s.alu := rfl
@[simp] theorem finishTick_shOut (mi : MicroInstr) (s : State) : (finishTick mi s).shOut = s.shOut := rfl
@[simp] theorem finishTick_mpcc (mi : MicroInstr) (s : State) : (finishTick mi s).mpcc = s.mpcc := rfl
@[simp] theorem finishTick_memu (mi : MicroInstr) (s : State) : (finishTick mi s).memu = s.memu := rfl
@[simp] theorem finishTick_mem (mi : MicroInstr) (s : State) : (finishTick mi s).mem = s.mem := rfl
@[simp] theorem finishTick_output (mi : MicroInstr) (s : State) : (finishTick mi s).output = s.output := rfl
@[simp] theorem finishTick_input (mi : MicroInstr) (s : State) : (finishTick mi s).input = s.input := rfl
@[simp] theorem finishTick_breakpoints (mi : MicroInstr) (s : State) : (finishTick mi s).breakpoints = s.breakpoints := rfl
@[simp] theorem finishTick_nextBreakpointId (mi : MicroInstr) (s : State) : (finishTick mi s).nextBreakpointId = s.nextBreakpointId := rfl
@[simp] theorem finishTick_tickDone (mi : MicroInstr) (s : State) : (finishTick mi s).tickDone = some (mi, mi.mem.fetch) := rfl
@[simp] theorem finishTick_draws (mi : MicroInstr) (s : State) : (finishTick mi s).draws = s.draws := rfl

@[simp] theorem haltAtEmptySlot_cfg (s : State) : (haltAtEmptySlot s).cfg = s.cfg := rfl
@[simp] theorem haltAtEmptySlot_cs (s : State) : (haltAtEmptySlot s).cs = s.cs := rfl
@[simp] theorem haltAtEmptySlot_regs (s : State) : (haltAtEmptySlot s).regs = s.regs := rfl
@[simp] theorem haltAtEmptySlot_mpc (s : State) : (haltAtEmptySlot s).mpc = s.mpc := rfl
@[simp] theorem haltAtEmptySlot_prevMpc (s : State) : (haltAtEmptySlot s).prevMpc = s.prevMpc := rfl
@[simp] theorem haltAtEmptySlot_mir (s : State) : (haltAtEmptySlot s).mir = s.mir := rfl
@[simp] theorem haltAtEmptySlot_ticks (s : State) : (haltAtEmptySlot s).ticks = s.ticks := rfl
@[simp] theorem haltAtEmptySlot_lastMacroAddr (s : State) : (haltAtEmptySlot s).lastMacroAddr = s.lastMacroAddr := rfl
@[simp] theorem haltAtEmptySlot_halted (s : State) : (haltAtEmptySlot s).halted = true := rfl
@[simp] theorem haltAtEmptySlot_fault (s : State) : (haltAtEmptySlot s).fault = s.fault := rfl
@[simp] theorem haltAtEmptySlot_alu (s : State) : (haltAtEmptySlot s).alu = s.alu := rfl
@[simp] theorem haltAtEmptySlot_shOut (s : State) : (haltAtEmptySlot s).shOut = s.shOut := rfl
@[simp] theorem haltAtEmptySlot_mpcc (s : State) : (haltAtEmptySlot s).mpcc = s.mpcc := rfl
@[simp] theorem haltAtEmptySlot_memu (s : State) : (haltAtEmptySlot s).memu = s.memu := rfl
@[simp] theorem haltAtEmptySlot_mem (s : State) : (haltAtEmptySlot s).mem = s.mem := rfl
@[simp] theorem haltAtEmptySlot_output (s : State) : (haltAtEmptySlot s).output = s.output := rfl
@[simp] theorem haltAtEmptySlot_input (s : State) : (haltAtEmptySlot s).input = s.input := rfl
@[simp] theorem haltAtEmptySlot_breakpoints (s : State) : (haltAtEmptySlot s).breakpoints = s.breakpoints := rfl
@[simp] theorem haltAtEmptySlot_nextBreakpointId (s : State) : (haltAtEmptySlot s).nextBreakpointId = s.nextBreakpointId := rfl
@[simp] theorem haltAtEmptySlot_tickDone (s : State) : (haltAtEmptySlot s).tickDone = s.tickDone := rfl
@[simp] theorem haltAtEmptySlot_draws (s : State) : (haltAtEmptySlot s).draws = s.draws := rfl

@[simp] theorem runAlu_alu_a (f0 f1 : Bool) (s : State) : (runAlu f0 f1 s).alu.a = s.alu.a := rfl
@[simp] theorem runAlu_alu_b (f0 f1 : Bool) (s : State) : (runAlu f0 f1 s).alu.b = s.alu.b := rfl
@[simp] theorem runAlu_alu_sig (f0 f1 : Bool) (s : State) :
    (runAlu f0 f1 s).alu.sig = { s.alu.sig with f0 := f0, f1 := f1 } := rfl

@[simp] theorem stageMem_pendWord (g : MemSig) (s : State) : (stageMem g s).memu.pendWord = s.memu.pendWord := rfl
@[simp] theorem stageMem_pendByte (g : MemSig) (s : State) : (stageMem g s).memu.pendByte = s.memu.pendByte := rfl

@[simp] theorem fill_cfg (s : State) : (fill s).cfg = s.cfg := by
  unfold fill fillByte fillWord; split <;> split <;> rfl
@[simp] theorem fill_cs (s : State) : (fill s).cs = s.cs := by
  unfold fill fillByte fillWord; split <;> split <;> rfl
@[simp] theorem fill_mpc (s : State) : (fill s).mpc = s.mpc := by
  unfold fill fillByte fillWord; split <;> split <;> rfl
@[simp] theorem fill_prevMpc (s : State) : (fill s).prevMpc = s.prevMpc := by
  unfold fill fillByte fillWord; split <;> split <;> rfl
@[simp] theorem fill_mir (s : State) : (fill s).mir = s.mir := by
  unfold fill fillByte fillWord; split <;> split <;> rfl
@[simp] theorem fill_ticks (s : State) : (fill s).ticks = s.ticks := by
  unfold fill fillByte fillWord; split <;> split <;> rfl
@[simp] theorem fill_lastMacroAddr (s : State) : (fill s).lastMacroAddr = s.lastMacroAddr := by
  unfold fill fillByte fillWord; split <;> split <;> rfl
@[simp] theorem fill_halted (s : State) : (fill s).halted = s.halted := by
  unfold fill fillByte fillWord; split <;> split <;> rfl
@[simp] theorem fill_fault (s : State) : (fill s).fault = s.fault := by
  unfold fill fillByte fillWord; split <;> split <;> rfl
@[simp] theorem fill_alu (s : State) : (fill s).alu = s.alu := by
  unfold fill fillByte fillWord; split <;> split <;> rfl
@[simp] theorem fill_shOut (s : State) : (fill s).shOut = s.shOut := by
  unfold fill fillByte fillWord; split <;> split <;> rfl
@[simp] theorem fill_mpcc (s : State) : (fill s).mpcc = s.mpcc := by
  unfold fill fillByte fillWord; split <;> split <;> rfl
@[simp] theorem fill_mem (s : State) : (fill s).mem = s.mem := by
  unfold fill fillByte fillWord; split <;> split <;> rfl
@[simp] theorem fill_output (s : State) : (fill s).output = s.output := by
  unfold fill fillByte fillWord; split <;> split <;> rfl
@[simp] theorem fill_input (s : State) : (fill s).input = s.input := by
  unfold fill fillByte fillWord; split <;> split <;> rfl
@[simp] theorem fill_breakpoints (s : State) : (fill s).breakpoints = s.breakpoints := by
  unfold fill fillByte fillWord; split <;> split <;> rfl
@[simp] theorem fill_nextBreakpointId (s : State) : (fill s).nextBreakpointId = s.nextBreakpointId := by
  unfold fill fillByte fillWord; split <;> split <;> rfl
@[simp] theorem fill_tickDone (s : State) : (fill s).tickDone = s.tickDone := by
  unfold fill fillByte fillWord; split <;> split <;> rfl
@[simp] theorem fill_draws (s : State) : (fill s).draws = s.draws := by
  unfold fill fillByte fillWord; split <;> split <;> rfl

/-- What the fill does to the memory unit: the result latches are emptied (R216). -/
theorem fill_memu (s : State) : (fill s).memu = { s.memu with pendWord := none, pendByte := none } := by
  rcases s with ⟨_, _, _, _, _, _, _, _, _, _, _, _, _, ⟨_, _, _, _, _, _, pw, pb⟩, _⟩
  cases pw <;> cases pb <;> rfl

end Sys2Proof.Machine
end

