-- ==== Sys2Proof/Laws/Tick.lean ====
section
/-! SUPPORT. What the sequencing operations do, and what each phase of a tick answers, each said once: later proofs cite these and
unfold no phase. -/

namespace Sys2Proof.Machine

/-! ## Sequencing -/

theorem andThen_next {s : State} (h : s.fault = none) (k : State → Result) : andThen (.next s) k = k s := by
  simp [andThen, h]

theorem andThen_raised {s : State} {f : FaultRecord} (h : s.fault = some f) (k : State → Result) :
    andThen (.next s) k = .next s := by
  simp [andThen, h]

/-- Everything a sequence can answer as a next state: the raise of its first part, or the answer of its second. -/
theorem andThen_eq_next {r : Result} {k : State → Result} {t : State} (h : andThen r k = .next t) :
    (r = .next t ∧ t.fault.isSome) ∨ ∃ s, r = .next s ∧ s.fault = none ∧ k s = .next t := by
  cases r with
  | next s =>
    cases hf : s.fault with
    | some f =>
      rw [andThen_raised hf] at h
      cases h
      exact .inl ⟨rfl, by simp [hf]⟩
    | none =>
      rw [andThen_next hf] at h
      exact .inr ⟨s, rfl, hf, h⟩
  | fault f => cases h
  | refused f => cases h

theorem runOps_nil (s : State) : runOps [] s = .next s := rfl

theorem runOps_cons (i : Instr) (is : List Instr) (s : State) : runOps (i :: is) s = andThen (exec i s) (runOps is) := rfl

/-- A micro-operation that answers a state without a fault hands it to the rest. -/
theorem runOps_cons_next {i : Instr} {s t : State} (he : exec i s = .next t) (hf : t.fault = none) (is : List Instr) :
    runOps (i :: is) s = runOps is t := by
  rw [runOps_cons, he, andThen_next hf]

theorem runOps_opIf (c : Bool) (i : Instr) (is : List Instr) (s : State) :
    runOps (opIf c i ++ is) s = if c then runOps (i :: is) s else runOps is s := by
  cases c <;> rfl

/-! ## Phase 1 -/

/-- The state after the B bus and the ALU have run. -/
def computed (mi : MicroInstr) (s : State) : State :=
  let b := busB s.cfg.bsel mi.b s.regs
  let out := aluWord mi.alu s.regs.h b
  { s with
    mir := some mi
    alu := { a := s.regs.h, b := b, sig := mi.alu, out := out, n := negativeFlag out, z := zeroFlag out } }

/-- With the row a selector code picks, if it picks one, the B input is `BSEL` of that code (R191). -/
theorem runOps_bRows (mi : MicroInstr) (s : State) (hf : s.fault = none) (is : List Instr) :
    runOps (bRows s.cfg.bsel mi.b ++ is) (beginTick mi s) =
      runOps is (driveB (busB s.cfg.bsel mi.b s.regs) (beginTick mi s)) := by
  have hn : ∀ u : State, exec (noneRow mi.b) u = .next (driveB 0#32 u) := by
    intro u
    simp only [noneRow]
    split <;> rfl
  unfold bRows busB
  cases hb : s.cfg.bsel.source mi.b with
  | none => exact runOps_cons_next (hn (beginTick mi s)) (by exact hf) is
  | some r =>
    cases r
    case mar => simp [Reg.bRows, beginTick, rowlessB, driveB, RegFile.get, hb]
    case h => simp [Reg.bRows, beginTick, rowlessB, driveB, RegFile.get, hb]
    all_goals exact runOps_cons_next (s := beginTick mi s) rfl (by exact hf) is

/-- The row `F0`, `F1` pick runs the ALU with them (R144). -/
theorem exec_fnRow (g : AluSig) (s : State) : exec g.fnRow s = .next (runAlu g.f0 g.f1 s) := by
  unfold AluSig.fnRow
  split <;> simp_all [exec, execAluAnd, execAluOr, execAluNotb, execAluSum]

/-- The row of the shift signals: a fault for the illegal pair, the shifted word on the C bus otherwise (R171 to R174). -/
theorem exec_shRow (g : ShSig) (s : State) :
    exec g.row s = .next (if g.sll8 && g.sra1 then raise (.illegalShifter s.mpc s.mir) s else driveC (shifted g s.alu.out) s) := by
  rcases g with ⟨_ | _, _ | _⟩ <;> rfl

/-- The four modifier rows raise exactly the lines of the record. -/
theorem runOps_modRows (g : AluSig) (s : State) (hf : s.fault = none)
    (h0 : s.alu.sig = ⟨false, false, s.alu.sig.f0, s.alu.sig.f1, false, false⟩) (is : List Instr) :
    runOps (g.modRows ++ is) s = runOps is (setLines ⟨g.ena, g.enb, s.alu.sig.f0, s.alu.sig.f1, g.inva, g.inc⟩ s) := by
  rcases s with ⟨_, _, _, _, _, _, _, _, _, _, ⟨_, _, ⟨e, b, f0, f1, v, c⟩, _, _, _⟩, _⟩
  simp only [AluSig.mk.injEq] at h0
  obtain ⟨rfl, rfl, -, -, rfl, rfl⟩ := h0
  simp only at hf
  subst hf
  rcases g with ⟨_ | _, _ | _, g0, g1, _ | _, _ | _⟩ <;> rfl

/-- What phase 1 answers (R232, R174). -/
theorem phase1_eq (mi : MicroInstr) (s : State) (hf : s.fault = none) :
    phase1 mi s = .next (if mi.sh.sll8 && mi.sh.sra1 then raise (.illegalShifter s.mpc (some mi)) (computed mi s)
      else driveC (shifted mi.sh (aluWord mi.alu s.regs.h (busB s.cfg.bsel mi.b s.regs))) (computed mi s)) := by
  unfold phase1 MicroInstr.computeOps
  rw [runOps_bRows _ _ hf, runOps_modRows _ _ (by simp [hf]) (by simp),
    runOps_cons_next (exec_fnRow _ _) (by simp [hf]), runOps_cons, exec_shRow]
  cases hg : (mi.sh.sll8 && mi.sh.sra1) with
  | true => exact andThen_raised (by simp; rfl) _
  | false =>
    simp only [Bool.false_eq_true, if_false]
    rw [andThen_next (by simp [hf]), runOps_nil]
    rfl

/-! ## Phase 2 -/

/-- One C row, set or clear. -/
theorem runOps_cRow {r : Reg} {i : Instr} (hi : ∀ s, exec i s = .next (writeReg s r s.shOut)) (c : Bool) (is : List Instr)
    (s : State) (hf : s.fault = none) :
    runOps (opIf c i ++ is) s = runOps is { s with regs := if c then s.regs.set r s.shOut else s.regs } := by
  cases c with
  | false => rfl
  | true => exact runOps_cons_next (hi s) hf is

/-- The C rows write the shifter's output into exactly the registers of the set (R194). -/
theorem runOps_cRows (g : CSet) (s : State) (hf : s.fault = none) :
    runOps g.rows s = .next { s with regs := writeC g s.shOut s.regs } := by
  have e : runOps g.rows s = runOps (g.rows ++ []) s := by rw [List.append_nil]
  rw [e]
  unfold CSet.rows
  simp only [List.append_assoc]
  iterate 9 rw [runOps_cRow (fun _ => rfl)]
  any_goals exact hf
  have set_if : ∀ (c : Bool) (x : RegFile) (v : Word),
      (if c then x.set .h v else x) = { x with h := if c then v else x.h } ∧
      (if c then x.set .opc v else x) = { x with opc := if c then v else x.opc } ∧
      (if c then x.set .tos v else x) = { x with tos := if c then v else x.tos } ∧
      (if c then x.set .cpp v else x) = { x with cpp := if c then v else x.cpp } ∧
      (if c then x.set .lv v else x) = { x with lv := if c then v else x.lv } ∧
      (if c then x.set .sp v else x) = { x with sp := if c then v else x.sp } ∧
      (if c then x.set .pc v else x) = { x with pc := if c then v else x.pc } ∧
      (if c then x.set .mdr v else x) = { x with mdr := if c then v else x.mdr } ∧
      (if c then x.set .mar v else x) = { x with mar := if c then v else x.mar } := by
    intro c x v
    cases c <;> exact ⟨rfl, rfl, rfl, rfl, rfl, rfl, rfl, rfl, rfl⟩
  simp only [(set_if _ _ _).1, (set_if _ _ _).2.1, (set_if _ _ _).2.2.1, (set_if _ _ _).2.2.2.1, (set_if _ _ _).2.2.2.2.1,
    (set_if _ _ _).2.2.2.2.2.1, (set_if _ _ _).2.2.2.2.2.2.1, (set_if _ _ _).2.2.2.2.2.2.2.1,
    (set_if _ _ _).2.2.2.2.2.2.2.2]
  rfl

/-- What the fill does to the registers (R216). -/
theorem fill_regs (s : State) : (fill s).regs = deliver s.memu.pendWord s.memu.pendByte s.regs := by
  rcases s with ⟨_, _, _, _, _, _, _, _, _, _, _, _, _, ⟨_, _, _, _, _, _, pw, pb⟩, _⟩
  have h : ∀ c : Byte, lowByte (zext8 c) = c := fun c => by simp [lowByte, zext8]
  cases pw <;> cases pb <;>
    simp [fill, fillByte, fillWord, deliver, writeReg, RegFile.set, h]

/-- What phase 2 answers (R233). -/
theorem phase2_eq (mi : MicroInstr) (s : State) (hf : s.fault = none) :
    phase2 mi s = .next (fill (latchFlags { s with regs := writeC mi.c s.shOut s.regs })) := by
  unfold phase2 MicroInstr.writeOps
  rw [runOps_cRows _ _ hf]
  exact andThen_next (by exact hf) _

/-! ## Memory -/

/-- The memory accesses of a tick whose staged addresses are valid and that is not stuck. -/
theorem memoryPhase_ok (mi : MicroInstr) (s : State) (hf : s.fault = none)
    (hl : (mi.mem.read && mi.mem.write) = false)
    (h1 : mi.mem.fetch = true → validByteAddr s.cfg s.regs.pc = true)
    (h2 : mi.mem.read = true ∨ mi.mem.write = true → validPortAddr s.cfg s.regs.mar = true) :
    memoryPhase mi s = runOps (accessOrder mi.mem (stageMem mi.mem s)) (countDraw mi.mem (stageMem mi.mem s)) := by
  unfold memoryPhase MemSig.illegalRows
  rw [hl]
  have hv : validateStaged (stageMem mi.mem s) = stageMem mi.mem s := by
    unfold validateStaged
    rw [if_neg, if_neg, if_neg]
    · simp [stageMem]; intro h; exact h2 (.inr h)
    · simp [stageMem]; intro h; exact h2 (.inl h)
    · simp [stageMem]; intro h; exact h1 h
  simp only [opIf, Bool.false_eq_true, if_false, runOps_nil]
  rw [andThen_next (by exact hf), hv, andThen_next (by exact hf)]


/-- The state after the accesses of a tick, for valid addresses and an input where the port is read (R210 to R215). -/
def accessed (g : MemSig) (u : State) : State :=
  let m' := if g.write && !decide (u.regs.mar = u.cfg.ioAddr) then writeWord u.mem u.regs.mar.toNat u.regs.mdr else u.mem
  let race := g.fetch && g.write && decide (u.regs.pc.toNat / 4 = u.regs.mar.toNat)
  { u with
    lastMacroAddr := if g.fetch then some u.regs.pc else u.lastMacroAddr
    draws := if race then u.draws + 1 else u.draws
    memu :=
       { fetch := g.fetch, read := g.read, write := g.write, byteAddr := u.regs.pc, wordAddr := u.regs.mar,
         wordValue := u.regs.mdr,
         pendWord :=
           (if g.read then
              if u.regs.mar = u.cfg.ioAddr then (nextInput u.input).map (fun x => zext8 x.1) else some (readWord u.mem u.regs.mar.toNat)
            else none),
         pendByte :=
           (if g.fetch then
              if race && Config.raceSeesNewByte u.draws then some (readByte m' u.regs.pc.toNat)
              else some (readByte u.mem u.regs.pc.toNat)
            else none) }
    mem := m'
    output := if g.write && decide (u.regs.mar = u.cfg.ioAddr) then u.output ++ [lowByte u.regs.mdr] else u.output
    input := if g.read && decide (u.regs.mar = u.cfg.ioAddr) then ((nextInput u.input).map (·.2)).getD u.input else u.input }

/-- The accesses of a tick, in either order of a race, give `accessed`. -/
theorem runOps_accesses (g : MemSig) (u : State) (hf : u.fault = none) (hl : (g.read && g.write) = false)
    (h1 : g.fetch = true → validByteAddr u.cfg u.regs.pc = true)
    (h2 : g.read = true ∨ g.write = true → validPortAddr u.cfg u.regs.mar = true)
    (h3 : g.read = true → u.regs.mar = u.cfg.ioAddr → nextInput u.input ≠ none)
    (hp : u.memu.pendWord = none) (hq : u.memu.pendByte = none) :
    runOps (accessOrder g (stageMem g u)) (countDraw g (stageMem g u)) = .next (accessed g u) := by
  have hr : isRace g (stageMem g u) = (g.fetch && g.write && decide (u.regs.pc.toNat / 4 = u.regs.mar.toNat)) := rfl
  have hd : (stageMem g u).draws = u.draws := rfl
  unfold accessOrder countDraw
  rw [hr, hd]
  rcases u with ⟨cfg, cs, regs, mpc, pm, mir, tk, lm, hlt, flt, alu, sh, mpcc, ⟨m1, m2, m3, m4, m5, m6, pw, pb⟩, mem, out, inp, bp,
    nb, td, dr⟩
  simp only at hf hp hq h1 h2 h3
  subst hf hp hq
  rcases g with ⟨_ | _, _ | _, _ | _⟩
  all_goals simp_all [MemSig.accessRows, opIf, runOps, andThen, exec, execFetch, execRead, execWrite, applyFetch, applyRead,
    applyWrite, stageMem, validPortAddr, accessed]
  all_goals (try split_ifs)
  all_goals simp_all [runOps, andThen, exec, execFetch, execWrite, applyFetch, applyWrite]
  all_goals (cases hi : nextInput inp with | none => exact absurd hi h3 | some x => simp)

/-! ## Faults -/

/-- What it means that a tick raises no fault. -/
theorem tickFault_none (mi : MicroInstr) (s : State) (h : tickFault mi s = none) :
    (mi.sh.sll8 && mi.sh.sra1) = false ∧ (mi.mem.read && mi.mem.write) = false ∧
    (mi.mem.fetch = true → validByteAddr s.cfg (regsAfter mi s).pc = true) ∧
    (mi.mem.read = true ∨ mi.mem.write = true → validPortAddr s.cfg (regsAfter mi s).mar = true) := by
  unfold tickFault at h
  simp only at h
  split at h
  · cases h
  next h0 =>
  split at h
  · cases h
  next h1 =>
  split at h
  · cases h
  next h2 =>
  split at h
  · cases h
  next h3 =>
  split at h
  · cases h
  next h4 =>
  refine ⟨by simpa using h0, by simpa using h1, fun hx => ?_, fun hx => ?_⟩
  · simpa [hx, validByteAddr] using h2
  · rcases hx with hx | hx
    · simp [validPortAddr, validWordAddr]; simp [hx] at h3; tauto
    · simp [validPortAddr, validWordAddr]; simp [hx] at h4; tauto

/-! ## The next address -/

/-- NEXT and the jump rows together are the formula of R180. -/
theorem runOps_nextOps (mi : MicroInstr) (s : State) (hf : s.fault = none) :
    runOps mi.nextOps s = .next (steer (nextAddress mi.addr mi.jam (lowByte s.regs.mbr) s.mpcc.n s.mpcc.z)
      { s with prevMpc := s.mpc }) := by
  rcases s with ⟨_, _, _, _, _, _, _, _, _, _, _, _, ⟨n, z, _⟩, _⟩
  simp only at hf
  subst hf
  rcases mi with ⟨_, _, _, _, _, ⟨c, jn, jz⟩, a⟩
  cases c <;> cases jn <;> cases jz <;> cases n <;> cases z <;>
    first
      | rfl
      | (simp [MicroInstr.nextOps, JamSig.rows, opIf, runOps, andThen, exec, execNextAddr, execJmpc, execJmpn, execJmpz, steer,
          nextAddress, jumpTaken, setBit8, orByte, fetchedByte, BitVec.or_assoc])

/-! ## The step -/

/-- With no fault and a microinstruction in the slot, a step is its tick. -/
theorem step_of_slot {s : State} {mi : MicroInstr} (hf : s.fault = none) (hs : currentSlot s = some mi) : step s = tick mi s := by
  simp only [step, hf, hs]

/-- Everything a step that answers a next state can have been: the halt at an empty slot (R239) or a tick. -/
theorem step_eq_next {s t : State} (h : step s = .next t) :
    s.fault = none ∧
    ((currentSlot s = none ∧ t = haltAtEmptySlot s) ∨ ∃ mi, currentSlot s = some mi ∧ tick mi s = .next t) := by
  unfold step at h
  split at h
  · cases h
  next hf =>
  refine ⟨hf, ?_⟩
  split at h
  · next hs => cases h; exact .inl ⟨hs, rfl⟩
  · next mi hs => exact .inr ⟨mi, hs, h⟩

end Sys2Proof.Machine
end

