-- ==== Sys2Proof/Tests/Slice0.lean ====
section
/-! SUPPORT. Smoke tests of the checks, decoding tests against words written out from 30_encoding.md R102, single-step tests whose
expected results are those of spec/ (each names its vector), and for every obligation with hypotheses a witness that meets them. -/

namespace Sys2Proof.Tests
open Sys2Proof Sys2Proof.Machine

/-! ## Helpers -/

/-- The next state, where there is one. -/
def answered (r : Result) : Option State :=
  match r with
  | .next t => some t
  | .fault _ => none
  | .refused _ => none

/-- One tick from `s`, and one field of its result. -/
def after {α : Type} (f : State → α) (s : State) : Option α := (answered (step s)).map f

/-- The reset state with control words in the slots listed (strictly rising), its registers changed by `g`. -/
def core (code : List (Nat × CWord)) (g : RegFile → RegFile) : State :=
  { State.reset with cs := code.map (fun x => (x.1, decodeWord Layout.textbook x.2)), regs := g State.reset.regs }

/-- The microinstruction of a word. -/
def mi (w : CWord) : MicroInstr := decodeWord Layout.textbook w

/-! ## The checks refuse what is ill-formed (R8, R106, R107, R110) -/

theorem test_shifter_pair_refused : ShSig.legal ⟨true, true⟩ = false ∧ ShSig.legal ⟨true, false⟩ = true := by decide
theorem test_memory_pair_refused : MemSig.legal ⟨false, true, true⟩ = false ∧ MemSig.legal ⟨true, true, false⟩ = true := by decide
theorem test_illegal_words_refused : (mi 0x008D8A009#36).legal = false ∧ (mi 0x0081400E4#36).legal = false := by decide
theorem test_illegal_rows_refused : Instr.legal .shIllegal = false ∧ Instr.legal .memIllegal = false ∧ Instr.legal .read = true := by
  decide
theorem test_overlapping_layout_refused : ({ Layout.textbook with jmpc := 25 } : Layout).wf = false := by decide
theorem test_layout_past_bit_35_refused : ({ Layout.textbook with addr := 28, b := 23, sll8 := 0, sra1 := 1 } : Layout).wf = false := by
  decide
theorem test_unsorted_cells_refused : cellsOk 8 [(2, 1#8), (1, 1#8)] = false := by decide
theorem test_zero_cell_refused : cellsOk 8 [(2, 0#8)] = false := by decide
theorem test_cell_outside_refused : cellsOk 8 [(8, 1#8)] = false := by decide
theorem test_suggested_parameters_accepted : Config.suggested.wf = true := by decide
theorem test_empty_memory_refused : ({ Config.suggested with memWords := 0 } : Config).wf = false := by decide
theorem test_port_inside_memory_refused : ({ Config.suggested with ioAddr := 0xFF#32 } : Config).wf = false := by decide
theorem test_valid_reset_pc_refused : ({ Config.suggested with resetPc := 0x3FF#32 } : Config).wf = false := by decide
theorem test_short_record_refused : ({ Config.suggested with recordBytes := 4 } : Config).wf = false := by decide
theorem test_short_selector_table_refused : ({ Config.suggested with bsel := [] } : Config).wf = false := by decide
theorem test_bad_initial_memory_refused : ({ Config.suggested with memInit := [(0x400, 1#8)] } : Config).wf = false := by decide
theorem test_unsorted_memory_refused : Memory.wf [(1, 1#8), (1, 2#8)] = false := by decide
theorem test_unsorted_store_refused : ControlStore.wf [(512, mi 0#36)] = false := by decide

/-! ## Decoding, against words written bit by bit from R102: Addr, JMPC JMPN JMPZ, SLL8 SRA1, F0 F1 ENA ENB INVA INC, C (H OPC
TOS CPP LV SP PC MDR MAR), WRITE READ FETCH, B -/

theorem test_decode_alu_fn :
    decodeTableWord 40 0b000000000_000_00_010000_000000000_000_0000 = some .aluOr ∧
    decodeTableWord 40 0b000000000_000_00_100000_000000000_000_0000 = some .aluNotb ∧
    decodeTableWord 40 0b000000000_000_00_110000_000000000_000_0000 = some .aluSum := by decide
theorem test_decode_alu_mod :
    decodeTableWord 40 0b000000000_000_00_001000_000000000_000_0000 = some .ena ∧
    decodeTableWord 40 0b000000000_000_00_000100_000000000_000_0000 = some .enb ∧
    decodeTableWord 40 0b000000000_000_00_000010_000000000_000_0000 = some .inva ∧
    decodeTableWord 40 0b000000000_000_00_000001_000000000_000_0000 = some .inc := by decide
theorem test_decode_shift :
    decodeTableWord 40 0b000000000_000_10_000000_000000000_000_0000 = some .sll8 ∧
    decodeTableWord 40 0b000000000_000_01_000000_000000000_000_0000 = some .sra1 ∧
    decodeTableWord 40 0b000000000_000_11_000000_000000000_000_0000 = some .shIllegal := by decide
theorem test_decode_c_bus :
    decodeTableWord 40 0b000000000_000_00_000000_100000000_000_0000 = some .cH ∧
    decodeTableWord 40 0b000000000_000_00_000000_010000000_000_0000 = some .cOpc ∧
    decodeTableWord 40 0b000000000_000_00_000000_001000000_000_0000 = some .cTos ∧
    decodeTableWord 40 0b000000000_000_00_000000_000100000_000_0000 = some .cCpp ∧
    decodeTableWord 40 0b000000000_000_00_000000_000010000_000_0000 = some .cLv ∧
    decodeTableWord 40 0b000000000_000_00_000000_000001000_000_0000 = some .cSp ∧
    decodeTableWord 40 0b000000000_000_00_000000_000000100_000_0000 = some .cPc ∧
    decodeTableWord 40 0b000000000_000_00_000000_000000010_000_0000 = some .cMdr ∧
    decodeTableWord 40 0b000000000_000_00_000000_000000001_000_0000 = some .cMar := by decide
theorem test_decode_b_sel :
    decodeTableWord 40 0b000000000_000_00_000000_000000000_000_0001 = some .bPc ∧
    decodeTableWord 40 0b000000000_000_00_000000_000000000_000_0010 = some .bMbr ∧
    decodeTableWord 40 0b000000000_000_00_000000_000000000_000_0011 = some .bMbru ∧
    decodeTableWord 40 0b000000000_000_00_000000_000000000_000_0100 = some .bSp ∧
    decodeTableWord 40 0b000000000_000_00_000000_000000000_000_0101 = some .bLv ∧
    decodeTableWord 40 0b000000000_000_00_000000_000000000_000_0110 = some .bCpp ∧
    decodeTableWord 40 0b000000000_000_00_000000_000000000_000_0111 = some .bTos ∧
    decodeTableWord 40 0b000000000_000_00_000000_000000000_000_1000 = some .bOpc := by decide
theorem test_decode_b_none :
    decodeTableWord 40 0b000000000_000_00_000000_000000000_000_1001 = some .bNone9 ∧
    decodeTableWord 40 0b000000000_000_00_000000_000000000_000_1010 = some .bNone10 ∧
    decodeTableWord 40 0b000000000_000_00_000000_000000000_000_1011 = some .bNone11 ∧
    decodeTableWord 40 0b000000000_000_00_000000_000000000_000_1100 = some .bNone12 ∧
    decodeTableWord 40 0b000000000_000_00_000000_000000000_000_1101 = some .bNone13 ∧
    decodeTableWord 40 0b000000000_000_00_000000_000000000_000_1110 = some .bNone14 ∧
    decodeTableWord 40 0b000000000_000_00_000000_000000000_000_1111 = some .bNone15 := by decide
theorem test_decode_mem :
    decodeTableWord 40 0b000000000_000_00_000000_000000000_001_0000 = some .fetch ∧
    decodeTableWord 40 0b000000000_000_00_000000_000000000_010_0000 = some .read ∧
    decodeTableWord 40 0b000000000_000_00_000000_000000000_100_0000 = some .write ∧
    decodeTableWord 40 0b000000000_000_00_000000_000000000_110_0000 = some .memIllegal := by decide
theorem test_decode_jam_next :
    decodeTableWord 40 0b000000000_100_00_000000_000000000_000_0000 = some .jmpc ∧
    decodeTableWord 40 0b000000000_010_00_000000_000000000_000_0000 = some .jmpn ∧
    decodeTableWord 40 0b000000000_001_00_000000_000000000_000_0000 = some .jmpz ∧
    decodeTableWord 40 0b100000010_000_00_000000_000000000_000_0000 = some (.nextAddr 0x102#9) := by decide

/-- The four rows of the all-zero word are all selected by it, and nothing else is (R105); one of them names it (log 1). -/
theorem test_decode_zero_word :
    (decodeWord Layout.textbook 0b000000000_000_00_000000_000000000_000_0000#36).ops BSel.textbook =
      [.bMdr, .aluAnd, .shPass, .nextAddr 0#9] ∧ decodeTableWord 40 0 = some .aluAnd := by decide

/-- R126, record 0: every row of the word, in the order in which the tick performs them. -/
theorem test_decode_worked_example :
    (mi 0x008350211#36).ops BSel.textbook = [.bPc, .enb, .inc, .aluSum, .shPass, .cPc, .fetch, .nextAddr 1#9] := by decide

/-- R123 in the decoder: too few bytes are refused by name. -/
theorem test_truncated_record_refused :
    decodeRecord Layout.textbook 5 [0x00#8, 0x83#8, 0x50#8, 0x21#8] = .error .truncatedRecord := by decide

/-- R122, 95_test_vectors.md 2.6: padding bits are ignored. -/
theorem test_padding_ignored :
    decodeRecord Layout.textbook 5 [0x00#8, 0x83#8, 0x50#8, 0x21#8, 0x1F#8] = .ok (mi 0x008350211#36, []) := by decide

/-! ## The units (40_alu.md R158, R160; 41_shifter.md; 42_mpc.md R189; 43_buses_regfile.md R196) -/

theorem test_alu_named_settings :
    aluWord (AluName.signals .bMinusA) 0x12345678#32 0x0000FFFF#32 = 0xEDCCA987#32 ∧
    aluWord (AluName.signals .notB) 0x12345678#32 0x0000FFFF#32 = 0xFFFF0000#32 ∧
    aluWord (AluName.signals .aAndB) 0x12345678#32 0x0000FFFF#32 = 0x00005678#32 ∧
    aluWord (AluName.signals .aOrB) 0x12345678#32 0x0000FFFF#32 = 0x1234FFFF#32 := by decide
theorem test_alu_wraps :
    aluWord (AluName.signals .aPlusB) 0x7FFFFFFF#32 1#32 = 0x80000000#32 ∧
    aluWord (AluName.signals .aPlusB) 0xFFFFFFFF#32 1#32 = 0#32 ∧
    aluWord (AluName.signals .negA) 0x80000000#32 0#32 = 0x80000000#32 := by decide
theorem test_shifter_values :
    shiftLeft8 0x12345678#32 = 0x34567800#32 ∧ shiftLeft8 0x00800000#32 = 0x80000000#32 ∧
    shiftRight1 0x80000000#32 = 0xC0000000#32 ∧ shiftRight1 0x7FFFFFFF#32 = 0x3FFFFFFF#32 := by decide
theorem test_next_address_values :
    nextAddress 0x0AA#9 ⟨true, false, false⟩ 0x55#8 false false = 0x0FF#9 ∧
    nextAddress 0x00F#9 ⟨true, true, false⟩ 0xF0#8 true false = 0x1FF#9 ∧
    nextAddress 0x002#9 ⟨false, false, true⟩ 0x00#8 true false = 0x002#9 := by decide
theorem test_mbr_write :
    (State.reset.regs.set .mbr 0x12345685#32).mbr = 0xFFFFFF85#32 ∧ (State.reset.regs.set .mbr 0x12345685#32).mbru = 0x85#32 ∧
    (State.reset.regs.set .mbr 0xABCDEF7F#32).mbr = 0x7F#32 := by decide
theorem test_byte_lanes :
    readByte (writeWord [] 1 0x11223344#32) 4 = 0x11#8 ∧ readByte (writeWord [] 1 0x11223344#32) 7 = 0x44#8 ∧
    readByte (writeWord [] 1 0x11223344#32) 8 = 0x00#8 ∧ writeWord (writeWord [] 1 0x11223344#32) 1 0#32 = [] := by decide

/-! ## Single ticks: the vectors F1 to F15 of 95_test_vectors.md 2.7, and ticks of its programs -/

/-- F1. -/
def sF1 : State := core [(0, 0x008D8A009#36)] fun x => { x with h := 5#32 }
theorem test_F1_illegal_shifter :
    after (fun t => (t.fault, t.regs.h, t.regs.tos, t.mpc, t.ticks)) sF1 =
      some (some (.illegalShifter 0#9 (some (mi 0x008D8A009#36))), 5#32, 0#32, 0#9, 0) := by decide

/-- F2. -/
def sF2 : State := core [(0, 0x0081400E4#36)] fun x => { x with sp := 0x10#32 }
theorem test_F2_illegal_memory_pair :
    after (fun t => (t.fault, t.regs.mar, t.mem.length, t.mpc)) sF2 =
      some (some (.illegalReadWrite 0#9 (some (mi 0x0081400E4#36))), 0x10#32, 0, 0#9) := by decide

/-- F3. -/
def sF3 : State := core [(0, 0x008000019#36)] id
theorem test_F3_fetch_at_sentinel :
    after (fun t => (t.fault, t.memu.pendByte, t.mpc, t.ticks)) sF3 = some (some (.addressingFetch 0xFFFFFFFF#32), none, 0#9, 0) := by
  decide

/-- F3b, F3c. -/
def sF3b : State := core [(0, 0x008000019#36)] fun x => { x with pc := 0x400#32 }
def sF3c : State := { core [(0, 0x008000019#36)] fun x => { x with pc := 0x3FF#32 } with mem := writeWord [] 0xFF 0x11223344#32 }
theorem test_F3b_fetch_out_of_range : after (fun t => t.fault) sF3b = some (some (.addressingFetch 0x400#32)) := by decide
theorem test_F3c_fetch_last_byte :
    after (fun t => (t.memu.pendByte, t.lastMacroAddr, t.mpc, t.ticks, t.halted)) sF3c =
      some (some 0x44#8, some 0x3FF#32, 1#9, 1, true) := by decide

/-- F4, F5, F5b. -/
def sF4 : State := core [(0, 0x008000029#36)] fun x => { x with mar := 0x100#32 }
def sF5 : State := core [(0, 0x008000049#36)] fun x => { x with mar := 0x100#32, mdr := 7#32 }
def sF5b : State := core [(0, 0x008000049#36)] fun x => { x with mar := 0xFFFFFFFC#32, mdr := 7#32 }
theorem test_F4_read_out_of_range : after (fun t => t.fault) sF4 = some (some (.addressingRead 0x100#32)) := by decide
theorem test_F5_write_out_of_range : after (fun t => (t.fault, t.mem)) sF5 = some (some (.addressingWrite 0x100#32), []) := by decide
theorem test_F5b_write_below_port : after (fun t => (t.fault, t.output)) sF5b = some (some (.addressingWrite 0xFFFFFFFC#32), []) := by
  decide

/-- F6. -/
def sF6 : State := core [(0, 0x008000029#36)] fun x => { x with mar := 0xFFFFFFFD#32 }
theorem test_F6_stuck : step sF6 = .fault .awaitingInput := rfl
theorem test_F6_fed :
    after (fun t => (t.memu.pendWord, t.input, t.ticks)) (hostFeedInput [0x5A#8] sF6) = some (some 0x5A#32, ⟨[], none⟩, 1) := by decide

/-- 00 R8, 20 R77: an infinite INPUT gives its next byte and goes on, and what a host would put behind it does not show. -/
def sEndless : State := { sF6 with input := ⟨[], some 7⟩ }
theorem test_endless_input :
    after (fun t => (t.memu.pendWord, t.input)) (hostFeedInput [0x5A#8] sEndless) =
      some (some (zext8 (Config.endlessInput 7)), ⟨[], some 8⟩) := rfl

/-- F7. -/
theorem test_F7_empty_slot : step State.reset = .next { State.reset with halted := true } := rfl

/-- F8, F9. -/
def sF8 : State := core [(0, 0x028000009#36)] id
def sF9 : State := core [(0, 0x000000009#36)] id
theorem test_F8_halt_at_empty_slot : after (fun t => (t.mpc, t.prevMpc, t.ticks, t.halted)) sF8 = some (5#9, 0#9, 1, true) := by decide
theorem test_F9_halt_by_self_loop :
    after (fun t => (t.mpc, t.ticks, t.halted, t.mpcc.n, t.mpcc.z)) sF9 = some (0#9, 1, true, false, true) := by decide

/-- F10, the race: the state is used below, its byte is free. -/
def sF10 : State :=
  { core [(0, 0x008000059#36)] fun x => { x with pc := 5#32, mar := 1#32, mdr := 0x11223344#32 } with
    mem := writeWord [] 1 0xAABBCCDD#32 }

/-- F11. -/
def sF11 : State := core [(0, 0x000398009#36)] id
theorem test_F11_endless_self_loop : after (fun t => (t.regs.h, t.mpc, t.halted)) sF11 = some (1#32, 0#9, false) := by decide

/-- F12. -/
def sF12 : State := core [(0, 0x00814800C#36)] fun x => { x with h := 0x55#32, mdr := 0x77#32 }
theorem test_F12_unassigned_selector : after (fun t => (t.regs.h, t.mpcc.z)) sF12 = some (0#32, true) := by decide

/-- F13, F14. -/
def sF13 : State :=
  { core [(0, 0x008000039#36)] fun x => { x with pc := 0#32, mar := 0x100#32 } with mem := writeWord [] 0 0xAABBCCDD#32 }
def sF14 : State :=
  { core [(0, 0x008000039#36), (1, 0x008000009#36)] fun x => { x with pc := 2#32 } with mem := writeWord [] 0 0xAABBCCDD#32 }
theorem test_F13_neither_access :
    after (fun t => (t.fault, t.memu.pendByte)) sF13 = some (some (.addressingRead 0x100#32), none) := by decide
theorem test_F14_both_results :
    after (fun t => (t.memu.pendWord, t.memu.pendByte)) sF14 = some (some 0xAABBCCDD#32, some 0xCC#8) := by decide

/-- F15. -/
def sF15 : State := core [(0, 0x7FA320009#36)] id
theorem test_F15_jump_if_negative :
    after (fun t => (t.alu.out, t.mpcc.n, t.mpc, t.halted)) sF15 = some (0xFFFFFFFF#32, true, 0x1FF#9, true) := by decide

/-- Program P2, tick 4: the ALU saw the old MDR, and the fill (not a C-bus write) is what MDR holds. -/
def sP2 : State :=
  { core [(0, 0x020144000#36)] fun x => { x with mdr := 0xFFFFFFFF#32 } with
    memu := { MemUnit.afterReset with pendWord := some 0xCAFEBABE#32 } }
theorem test_P2_read_latency : after (fun t => (t.regs.opc, t.regs.mdr)) sP2 = some (0xFFFFFFFF#32, 0xCAFEBABE#32) := by decide

/-- 43 R424: setting B, SLL8, b=MBRU, C.LV (next=0x000). -/
def sLv : State := core [(0, 0b000000000_000_10_010100_000010000_000_0011#36)] fun x => { x with mbru := 0x85#32 }
theorem test_C_LV_with_SLL8 : after (fun t => t.regs.lv) sLv = some 0x8500#32 := by decide

/-- 44 R212: WRITE; and the port (20 R76). -/
def sWrite : State := core [(0, 0x008000049#36)] fun x => { x with mar := 0x40#32, mdr := 0xCAFEBABE#32 }
def sPort : State := core [(0, 0x008000049#36)] fun x => { x with mar := 0xFFFFFFFD#32, mdr := 0x12345648#32 }
theorem test_write : after (fun t => (readWord t.mem 0x40, t.output)) sWrite = some (0xCAFEBABE#32, []) := by decide
theorem test_write_port : after (fun t => (t.mem, t.output)) sPort = some ([], [0x48#8]) := by decide

/-- A register file with a different value in every register. -/
def distinct : RegFile :=
  { mar := 1#32, mdr := 2#32, pc := 3#32, mbr := 4#32, mbru := 4#32, sp := 6#32, lv := 7#32, cpp := 8#32, tos := 9#32, opc := 10#32,
    h := 11#32 }

/-- 43 R191: the B input for each of the 16 selector codes. -/
theorem test_selector_table :
    (List.range 16).map (fun k => after (fun t => t.alu.b.toNat) (core [(0, BitVec.ofNat 36 k)] fun _ => distinct)) =
      [2, 3, 4, 4, 6, 7, 8, 9, 10, 0, 0, 0, 0, 0, 0, 0].map some := by decide

/-- 00 R8, 43 R193: a `BSEL` that names MAR for code 0 and H for code 1 puts them on the B bus. -/
def widerBsel : State := { State.reset with cfg := { Config.suggested with bsel := some .mar :: some .h :: List.replicate 14 none } }
theorem test_BSEL_of_MAR_and_H :
    (List.range 3).map (fun k => after (fun t => t.alu.b.toNat)
      { widerBsel with cs := [(0, mi (BitVec.ofNat 36 k))], regs := distinct }) = [1, 11, 0].map some := by decide

/-- 43 R194, R102: each C bit (7 MAR, 8 MDR, 9 PC, 10 SP, 11 LV, 12 CPP, 13 TOS, 14 OPC, 15 H) with ALU setting -1 writes its own
register. -/
theorem test_destination_bits :
    (List.range 9).map (fun k => after (fun t => (t.regs == distinct, t.regs.get ([.mar, .mdr, .pc, .sp, .lv, .cpp, .tos, .opc,
        .h].getD k .mbr))) (core [(0, 0x000320000#36 ||| 1#36 <<< (k + 7))] fun _ => distinct)) =
      List.replicate 9 (some (false, 0xFFFFFFFF#32)) := by decide

/-- 30 R109: all of C set, all nine registers get the value and MBR, MBRU stay. -/
theorem test_all_destinations :
    after (fun t => t.regs) (core [(0, 0x00032FF80#36)] fun _ => distinct) =
      some { mar := 0xFFFFFFFF#32, mdr := 0xFFFFFFFF#32, pc := 0xFFFFFFFF#32, mbr := 4#32, mbru := 4#32, sp := 0xFFFFFFFF#32,
             lv := 0xFFFFFFFF#32, cpp := 0xFFFFFFFF#32, tos := 0xFFFFFFFF#32, opc := 0xFFFFFFFF#32, h := 0xFFFFFFFF#32 } := by
  decide

/-- 42 R187, 44 R216: JMPC dispatches on the byte the fill of this tick delivers. -/
def sDispatch : State :=
  { core [(0, 0x804000009#36)] id with memu := { MemUnit.afterReset with pendByte := some 0x85#8 } }
theorem test_dispatch_on_fill : after (fun t => (t.mpc, t.regs.mbr, t.regs.mbru)) sDispatch = some (0x185#9, 0xFFFFFF85#32, 0x85#32) := by
  decide

/-- Program P1, tick 5: JMPZ taken. -/
def sP1 : State := core [(0, 0x011364008#36)] fun x => { x with opc := 1#32 }
theorem test_P1_jump_if_zero : after (fun t => (t.regs.opc, t.mpcc.z, t.mpc)) sP1 = some (0#32, true, 0x102#9) := by decide

/-- 41 R173, R175: SRA1 of the ALU's 1 (setting `1`, C.H) writes 0 while Z stays 0. -/
def sSra : State := core [(0, 0b000000000_000_01_110001_100000000_000_1001#36)] id
theorem test_SRA1_leaves_flags : after (fun t => (t.regs.h, t.mpcc.z)) sSra = some (0#32, false) := by decide

/-- The word placed by `withFetchWord` is the one the first step after reset runs (R126, record 0: PC goes from -1 to 0). -/
theorem test_fetch_word_runs_next :
    after (fun t => (t.regs.pc, t.mpc, t.lastMacroAddr)) (State.reset.withFetchWord 40 0x008350211) =
      some (0#32, 1#9, some 0#32) := by decide

/-! ## Images (20_memory.md R92, 95_test_vectors.md 2.5, 2.6) -/

def image92 : List Byte :=
  [0x1D#8, 0xEA#8, 0xDF#8, 0xAD#8, 0#8, 0#8, 0#8, 2#8, 0#8, 0#8, 0#8, 5#8, 0xAA#8, 0xBB#8, 0xCC#8, 0xDD#8, 0xEE#8] ++
  [0#8, 0#8, 0#8, 8#8, 0#8, 0#8, 0#8, 2#8, 1#8, 2#8]
def image126 : List Byte :=
  [0x12#8, 0x34#8, 0x56#8, 0x78#8, 0x00#8, 0x83#8, 0x50#8, 0x21#8, 0x10#8, 0x81#8, 0#8, 0#8, 0#8, 0x90#8]

/-- The answer of a loader, as something to compare. -/
def loaded {α : Type} (r : Except ConstructError α) : Option α :=
  match r with
  | .ok x => some x
  | .error _ => none

/-- The error of a loader, if it gave one. -/
def rejected {α : Type} (r : Except ConstructError α) : Option ConstructError :=
  match r with
  | .ok _ => none
  | .error e => some e

theorem ok_of_isSome {α : Type} {r : Except ConstructError α} (h : (loaded r).isSome = true) : ∃ x, r = .ok x := by
  cases r with
  | ok x => exact ⟨x, rfl⟩
  | error e => cases h

theorem test_macro_image :
    (loaded (loadMacro Config.suggested image92)).map (fun m => (readWord m 0, readWord m 1, readWord m 2)) =
      some (0x0000AABB#32, 0xCCDDEE00#32, 0x01020000#32) := by decide
theorem test_truncated_macro_image :
    rejected (loadMacro Config.suggested (image92.take 26)) = some (.fileFormat .ijvm .truncatedBlockData) := by decide
theorem test_microcode_image :
    loaded (loadMicrocode Config.suggested image126) = some [(0, mi 0x008350211#36), (1, mi 0x810000009#36)] := by decide
theorem test_bad_magic :
    rejected (loadMicrocode Config.suggested [0x12#8, 0x34#8, 0x56#8, 0x79#8]) = some (.fileFormat .microcode .badMagic) := by decide

/-- R87, R89, log 24: the second block, of two bytes, is cut and would lie outside memory; the cut is recorded. -/
theorem test_bad_macro_blocks :
    rejected (loadMacro { Config.suggested with memWords := 2 } image92) = some (.fileFormat .ijvm .blockOutsideMemory) ∧
    rejected (loadMacro { Config.suggested with memWords := 2 } (image92.take 26)) = some (.fileFormat .ijvm .truncatedBlockData) := by
  decide

/-- R110, R123, log 24: an illegal word and a cut record under REJECT_ILLEGAL_AT_LOAD. -/
theorem test_bad_microcode_image :
    rejected (loadMicrocode { Config.suggested with rejectIllegalAtLoad := true }
      ([0x12#8, 0x34#8, 0x56#8, 0x78#8] ++ recordOfWord 5 0x008D8A009#36 ++ [0#8])) =
      some (.fileFormat .microcode .truncatedRecord) := by decide

/-! ## The host (20_memory.md R80, 30_encoding.md R118, 60_exceptions.md R272) -/

theorem test_host_word_rejected :
    hostReadWord 0xFFFFFFFD#32 State.reset = .error (.addressingHost .read 0xFFFFFFFD#32) ∧
    hostWriteWord 0x100#32 1#32 State.reset = .error (.addressingHost .write 0x100#32) ∧
    hostGetSlot 0x200#32 State.reset = .error (.addressingHost .read 0x200#32) := ⟨rfl, rfl, rfl⟩

/-! ## The controller (95_test_vectors.md 2.8, B3, B4) -/

def twoBreakpoints : State :=
  addBreakpoint (.microLine 2) (addBreakpoint (.register (some .opc) 1) (addBreakpoint (.register (some .opc) 1) State.reset))
theorem test_B3_breakpoints :
    (listBreakpoints twoBreakpoints).map (·.kind) = [.register .opc 1#32, .microLine 2#9] ∧
    (listBreakpoints (resetMachine (removeBreakpoint 0 twoBreakpoints))).map (·.kind) = [.microLine 2#9] := by decide
theorem test_B4_invalid_breakpoint : addBreakpoint (.microLine 0x200) State.reset = State.reset := by decide

/-- R299: removal by id, the others in order. -/
theorem test_remove_breakpoint :
    listBreakpoints (removeBreakpoint 1 (addBreakpoint (.macroLine 4) twoBreakpoints)) =
      [⟨0, .register .opc 1#32⟩, ⟨2, .macroLine 4#32⟩] := by decide

/-! ## Witnesses: for each obligation with hypotheses a concrete state and operands that meet them together, one for each clause at a
boundary of its range -/

/-- Two words: the first in slot 0 names slot 1, the second is there. -/
def pair (w0 w1 : CWord) (g : RegFile → RegFile) : State := core [(0, w0), (1, w1)] g

theorem wit_DecodingAnEncodedRecord : Layout.textbook.wf = true ∧ ({ Layout.textbook with jmpc := 25, jmpn := 26 } : Layout).wf = true := by
  decide

/-- For DecoderFindsExactlyTheRowsOfMaskAndMatch and the two round trips, a layout with two fields exchanged: its JMPN is the
textbook's JMPC. -/
theorem test_mask_follows_layout :
    Instr.mask { Layout.textbook with jmpc := 25, jmpn := 26 } .jmpn = Instr.tableMask .jmpc ∧
    Instr.selectedBy { Layout.textbook with jmpc := 25, jmpn := 26 } .jmpn 0x004000000#36 = true := by decide

theorem wit_RowIsNamedByItsOwnWord :
    encode .ena ≠ 0#36 ∧ encode (.nextAddr 511#9) ≠ 0#36 ∧ encode .bMdr = 0#36 ∧ encode (.nextAddr 0#9) = 0#36 := by decide

theorem wit_MicrocodeImage :
    Config.suggested.wf = true ∧ (List.replicate 512 (haltWord 0#9)).length ≤ 512 ∧
    ({ Config.suggested with rejectIllegalAtLoad := true } : Config).wf = true ∧ (∀ m ∈ [haltWord 0#9], m.legal = true) := by
  exact ⟨by decide, List.length_replicate.le, by decide, by decide⟩

theorem wit_TruncatedMicrocodeRecord :
    Config.suggested.wf = true ∧ 4 ≤ (image126.take 8).length ∧ beNat ((image126.take 8).take 4) = Config.suggested.mic1Magic.toNat ∧
    ((image126.take 8).length - 4) % Config.suggested.recordBytes ≠ 0 := by decide

theorem wit_OversizedMicrocodeImage : Config.suggested.wf = true ∧ 512 < (List.replicate 513 (haltWord 0#9)).length := by
  exact ⟨by decide, by rw [List.length_replicate]; decide⟩

theorem wit_RejectOption :
    (∃ cs, loadMicrocode { Config.suggested with rejectIllegalAtLoad := true } image126 = .ok cs) ∧
    slotAt [(0, mi 0x008350211#36)] 0#9 = some (mi 0x008350211#36) ∧
    [mi 0x008D8A009#36].length ≤ 512 ∧ ∃ m ∈ [mi 0x008D8A009#36], m.legal = false :=
  ⟨ok_of_isSome (by decide), rfl, by decide, by decide⟩

theorem wit_MacroImage :
    Config.suggested.wf = true ∧ 4 * Config.suggested.memWords < 2 ^ 32 ∧
    (∀ x ∈ ([(0x3FE, [1#8, 2#8]), (0x400, [])] : List (Nat × List Byte)), x.1 + x.2.length ≤ 4 * Config.suggested.memWords) ∧
    Memory.wf [(0, 1#8)] = true := by decide

theorem wit_BlockOutsideMemory :
    (∀ x ∈ ([(0x3FE, [1#8, 2#8]), (0x400, [])] : List (Nat × List Byte)),
      x.1 < 2 ^ 32 ∧ x.2.length < 2 ^ 32 ∧ x.1 + x.2.length ≤ 4 * Config.suggested.memWords) ∧
    (0x3FE : Nat) < 2 ^ 32 ∧ [1#8, 2#8, 3#8].length < 2 ^ 32 ∧ 4 * Config.suggested.memWords < 0x3FE + [1#8, 2#8, 3#8].length ∧
    4 * Config.suggested.memWords < 0x401 + ([] : List Byte).length := by decide

theorem wit_ConstructedCore :
    Config.suggested.wf = true ∧ ∃ s, construct Config.suggested (some image126) (some image92) = .ok s :=
  ⟨by decide, ok_of_isSome (by decide)⟩

theorem wit_IllegalShifterPair :
    sF1.fault = none ∧ currentSlot sF1 = some (mi 0x008D8A009#36) ∧ (mi 0x008D8A009#36).sh = ⟨true, true⟩ := by decide

theorem wit_RegisterWrite : Reg.mbru ≠ Reg.mbr ∧ Reg.h ≠ Reg.mbr ∧ Reg.h ≠ Reg.mbru := by decide

theorem wit_BytePort : Memory.wf [] = true ∧ Memory.wf (writeWord [] 0xFF 0x11223344#32) = true := by decide

theorem wit_HostWord :
    Memory.wf State.reset.mem = true ∧ (0xFF#32).toNat < State.reset.cfg.memWords ∧
    State.reset.cfg.memWords ≤ (0x100#32).toNat := by decide

theorem wit_FetchRow :
    sF3c.regs.pc.toNat < 4 * sF3c.cfg.memWords ∧ sF3c.regs.pc.toNat + 1 = 4 * sF3c.cfg.memWords ∧
    4 * sF3b.cfg.memWords ≤ sF3b.regs.pc.toNat := by decide

def sRead : State := core [(0, 0x008000029#36)] fun x => { x with mar := 0xFF#32 }
theorem wit_ReadRow :
    (sF6.regs.mar = sF6.cfg.ioAddr ∧ sF6.input = ⟨[], none⟩) ∧
    ((hostFeedInput [0x5A#8] sF6).regs.mar = sF6.cfg.ioAddr ∧ (hostFeedInput [0x5A#8] sF6).input = ⟨[0x5A#8], none⟩) ∧
    (sEndless.regs.mar = sEndless.cfg.ioAddr ∧ sEndless.input = ⟨[], some 7⟩) ∧
    (sRead.regs.mar ≠ sRead.cfg.ioAddr ∧ sRead.regs.mar.toNat < sRead.cfg.memWords) ∧
    (sF4.regs.mar ≠ sF4.cfg.ioAddr ∧ sF4.cfg.memWords ≤ sF4.regs.mar.toNat) := by decide

/-- WRITE at the last word of memory. -/
def sLast : State := { sWrite with regs := { sWrite.regs with mar := 0xFF#32 } }
theorem wit_WriteRow :
    (sLast.regs.mar ≠ sLast.cfg.ioAddr ∧ sLast.regs.mar.toNat + 1 = sLast.cfg.memWords ∧ Memory.wf sLast.mem = true) ∧
    sPort.regs.mar = sPort.cfg.ioAddr ∧
    (sWrite.regs.mar ≠ sWrite.cfg.ioAddr ∧ sWrite.regs.mar.toNat < sWrite.cfg.memWords ∧ Memory.wf sWrite.mem = true) ∧
    (sF5.regs.mar ≠ sF5.cfg.ioAddr ∧ sF5.cfg.memWords ≤ sF5.regs.mar.toNat) := by decide

theorem wit_IllegalMemoryPair :
    sF2.fault = none ∧ currentSlot sF2 = some (mi 0x0081400E4#36) ∧ (mi 0x0081400E4#36).sh.legal = true ∧
    (mi 0x0081400E4#36).mem = ⟨false, true, true⟩ := by decide

/-- Also for HaltIsDetectedAtTheEndOfATick and TickLeavesUnnamedRegistersAlone. -/
theorem wit_CompletedTickGoes :
    sF15.fault = none ∧ currentSlot sF15 = some (mi 0x7FA320009#36) ∧ ∃ t, step sF15 = .next t ∧ t.fault = none :=
  ⟨rfl, rfl, _, rfl, rfl⟩

/-- The clauses of TickLeavesUnnamedRegistersAlone: no C bit, and nothing pending. -/
theorem wit_TickLeavesUnnamedRegisters :
    (mi 0x7FA320009#36).c = MicroInstr.blank.c ∧ sF15.memu.pendWord = none ∧ sF15.memu.pendByte = none := by decide

theorem wit_StepRuns : decodeTableMicro 40 0x000000009 = some (haltWord 0#9) ∧ sF9.fault = none ∧ currentSlot sF9 = some (haltWord 0#9) := by
  decide

theorem wit_CompletedTickIsTheClosedForm :
    sWrite.fault = none ∧ currentSlot sWrite = some (mi 0x008000049#36) ∧ tickFault (mi 0x008000049#36) sWrite = none ∧
    tickStuck (mi 0x008000049#36) sWrite = false := by decide

theorem wit_FaultingTick :
    sF13.fault = none ∧ currentSlot sF13 = some (mi 0x008000039#36) ∧
    tickFault (mi 0x008000039#36) sF13 = some (.addressingRead 0x100#32) ∧
    sF1.fault = none ∧ currentSlot sF1 = some (mi 0x008D8A009#36) ∧
    tickFault (mi 0x008D8A009#36) sF1 = some (.illegalShifter 0#9 (some (mi 0x008D8A009#36))) := by decide

theorem wit_EmptyInput :
    sF6.fault = none ∧ currentSlot sF6 = some (mi 0x008000029#36) ∧ tickFault (mi 0x008000029#36) sF6 = none ∧
    tickStuck (mi 0x008000029#36) sF6 = true := by decide

/-- In the race of F10 the tick completes whatever the free value is. -/
theorem race_completes : ∃ t, step sF10 = .next t ∧ t.fault = none ∧ t.regs.mar ≠ sF10.cfg.ioAddr ∧ t.regs.pc.toNat / 4 = t.regs.mar.toNat := by
  have h : step sF10 = tick (mi 0x008000059#36) sF10 := rfl
  rw [h, tick, phase1_eq _ _ rfl, if_neg (by decide), andThen_next rfl, phase2_eq _ _ rfl, andThen_next rfl, phase3,
    memoryPhase_ok _ _ rfl rfl (by decide) (by decide),
    runOps_accesses _ _ rfl rfl (by decide) (by decide) (by decide) rfl rfl, andThen_next rfl, runOps_nextOps _ _ rfl, andThen_next rfl]
  exact ⟨_, rfl, rfl, by decide, by decide⟩

/-- FETCH and WRITE of different words: the second clause of RacingFetchTakesOldOrNewByte. -/
def sApart : State := { sF10 with regs := { sF10.regs with pc := 8#32 } }
theorem wit_RacingFetch :
    sF10.fault = none ∧ currentSlot sF10 = some (mi 0x008000059#36) ∧ Memory.wf sF10.mem = true ∧
    (mi 0x008000059#36).mem = ⟨true, false, true⟩ ∧ currentSlot sApart = some (mi 0x008000059#36) ∧
    ∃ t, step sApart = .next t ∧ t.fault = none ∧ t.regs.mar ≠ sApart.cfg.ioAddr ∧ t.regs.pc.toNat / 4 ≠ t.regs.mar.toNat :=
  ⟨rfl, rfl, by decide, rfl, rfl, _, rfl, rfl, by decide, by decide⟩

/-- The three cases of the first clause of StepLeavesOtherMemoryBytesAlone, and a completed WRITE to memory. -/
theorem wit_StepLeavesOtherMemoryBytes :
    (mi 0x7FA320009#36).mem.write = false ∧
    (∃ t, step sF5 = .next t ∧ t.fault ≠ none) ∧
    (∃ t, step sPort = .next t ∧ t.regs.mar = sPort.cfg.ioAddr) ∧
    (∃ t, step sWrite = .next t ∧ t.regs.mar = 0x40#32) ∧ Memory.wf sWrite.mem = true :=
  ⟨rfl, ⟨_, rfl, by decide⟩, ⟨_, rfl, rfl⟩, ⟨_, rfl, rfl⟩, by decide⟩

theorem wit_StepKeepsFixtures : ∃ t, step sPort = .next t ∧ t.output = sPort.output ++ [0x48#8] := ⟨_, rfl, rfl⟩

/-- A core at its `halt` word satisfies the invariant, and its step answers a next state. -/
theorem wit_StepKeepsTheInvariant : sF9.Inv ∧ ∃ t, step sF9 = .next t :=
  ⟨⟨by decide, by decide, by decide, by decide, by decide, by decide, by decide, by decide, by decide, by decide⟩, _, rfl⟩

def sFaulted : State := raise (.addressingFetch 0x400#32) sF3b
theorem wit_StepStops : step sFaulted = .fault (.reported (.addressingFetch 0x400#32)) ∧ step sF6 = .fault .awaitingInput :=
  ⟨rfl, rfl⟩

/-- READ in slot 0 (goto 1), then a word that names MDR as destination and WRITEs at the same MAR. -/
def sReadWrite : State :=
  { pair 0x008000029#36 0x010324149#36 (fun x => { x with mar := 0x40#32 }) with mem := writeWord [] 0x40 0xCAFEBABE#32 }
theorem wit_ReadResultArrives :
    sReadWrite.fault = none ∧ currentSlot sReadWrite = some (mi 0x008000029#36) ∧ (mi 0x008000029#36).mem.read = true ∧
    (mi 0x010324149#36).mem.write = true ∧ (mi 0x010324149#36).c.mdr = true ∧
    ∃ t, step sReadWrite = .next t ∧ t.fault = none ∧ currentSlot t = some (mi 0x010324149#36) ∧ t.regs.mar ≠ sReadWrite.cfg.ioAddr ∧
      Memory.wf t.mem = true ∧ ∃ u, step t = .next u ∧ u.fault = none ∧ u.regs.mar ≠ sReadWrite.cfg.ioAddr :=
  ⟨rfl, rfl, rfl, rfl, rfl, _, rfl, rfl, rfl, by decide, by decide, _, rfl, rfl, by decide⟩

/-- READ at the port in slot 0 (goto 1), then a WRITE at the port: the clauses of the port. -/
def sEcho : State :=
  { pair 0x008000029#36 0x010000049#36 (fun x => { x with mar := 0xFFFFFFFD#32 }) with input := ⟨[0x5A#8], none⟩ }
theorem wit_ReadResultArrivesFromPort :
    sEcho.fault = none ∧ currentSlot sEcho = some (mi 0x008000029#36) ∧
    ∃ t, step sEcho = .next t ∧ t.fault = none ∧ currentSlot t = some (mi 0x010000049#36) ∧ t.regs.mar = sEcho.cfg.ioAddr ∧
      ∃ u, step t = .next u ∧ u.fault = none ∧ u.regs.mar = sEcho.cfg.ioAddr ∧ u.output = [0x5A#8] :=
  ⟨rfl, rfl, _, rfl, rfl, rfl, rfl, _, rfl, rfl, rfl, by decide⟩

/-- FETCH in slot 0 (goto 1), then a JMPC dispatch. -/
def sFetchJump : State :=
  { pair 0x008000019#36 0x004000009#36 (fun x => { x with pc := 1#32 }) with mem := writeWord [] 0 0x10850000#32 }
theorem wit_FetchedByteSteers :
    sFetchJump.fault = none ∧ currentSlot sFetchJump = some (mi 0x008000019#36) ∧ (mi 0x008000019#36).mem = ⟨true, false, false⟩ ∧
    (mi 0x004000009#36).jam.jmpc = true ∧
    ∃ t, step sFetchJump = .next t ∧ t.fault = none ∧ currentSlot t = some (mi 0x004000009#36) ∧ ∃ u, step t = .next u ∧ u.fault = none ∧
      u.mpc = 0x085#9 :=
  ⟨rfl, rfl, rfl, rfl, _, rfl, rfl, rfl, _, rfl, rfl, by decide⟩

/-- WRITE in slot 0 (goto 1), then a READ at the same MAR. -/
def sWriteRead : State := pair 0x008000049#36 0x010000029#36 fun x => { x with mar := 0x40#32, mdr := 0xCAFEBABE#32 }
theorem wit_ReadAfterWrite :
    sWriteRead.fault = none ∧ currentSlot sWriteRead = some (mi 0x008000049#36) ∧ Memory.wf sWriteRead.mem = true ∧
    (mi 0x008000049#36).mem.write = true ∧ (mi 0x010000029#36).mem.read = true ∧
    ∃ t, step sWriteRead = .next t ∧ t.fault = none ∧ currentSlot t = some (mi 0x010000029#36) ∧ t.regs.mar ≠ sWriteRead.cfg.ioAddr ∧
      ∃ u, step t = .next u ∧ u.fault = none ∧ u.regs.mar = t.regs.mar :=
  ⟨rfl, rfl, by decide, rfl, rfl, _, rfl, rfl, rfl, by decide, _, rfl, rfl, rfl⟩

theorem wit_FaultIsSticky : sFaulted.fault = some (.addressingFetch 0x400#32) := rfl

theorem wit_FetchAtTheResetSentinel :
    sF3.cfg.wf = true ∧ slotAt sF3.cs 0#9 = some (mi 0x008000019#36) ∧ (mi 0x008000019#36).legal = true ∧
    (mi 0x008000019#36).mem.fetch = true ∧ (mi 0x008000019#36).c.pc = false := by decide

theorem wit_EmptySlot : State.reset.fault = none ∧ currentSlot State.reset = none := by decide

theorem wit_SelfLoopingNoOp :
    sF9.fault = none ∧ currentSlot sF9 = some { MicroInstr.blank with b := 9#4, addr := sF9.mpc } ∧ sF9.memu.pendWord = none ∧
    sF9.memu.pendByte = none := by decide

/-- Countdown of two (program P1 from OPC = 1) and others: each way a call of `micro_step` ends is reached. -/
def sP1full : State := core [(0, 0x011364008#36), (2, 0x000398009#36), (258, 0x810000009#36)] fun x => { x with opc := 1#32 }
theorem wit_CallEndings :
    (microStep 3 sP1full).ending = .halted ∧ (microStep 3 sP1full).ticks = 2 ∧
    (microStep 1 sP1full).ending = .countReached ∧
    (microStep 3 (addBreakpoint (.microLine 0x102) sP1full)).ending = .vetoed ∧
    (microStep 1 sF3b).ending = .faulted (.addressingFetch 0x400#32) ∧
    (microStep 1 sF6).ending = .stuck := by decide

theorem wit_MicroStepCounts :
    ({ sF9 with halted := true } : State).fault = none ∧ ({ sF9 with halted := true } : State).halted = true ∧
    (microStep 0 sF9).ending = .countReached := by decide

/-- R246, R274, log 23: the last tick allowed is terminal, in each of the calls; and a call of count 0 on a halted core. -/
theorem test_halt_on_the_last_tick :
    ((microStep 2 sP1full).ending, (microStep 2 sP1full).ticks) = (.halted, 2) ∧
    (run 2 sP1full).ending = .halted ∧ (macroStep 2 1 sP1full).ending = .halted ∧ (run 1 sP1full).ending = .boundReached ∧
    (microStep 0 { sF9 with halted := true }).ending = .halted := by decide

/-- R279, U11: on a faulted core every call is refused and nothing changes, the ticks of the call before included. -/
def sFaultedLate : State := { sFaulted with ticks := 5 }
theorem test_refused_call_changes_nothing :
    microStep 0 sFaultedLate = ⟨sFaultedLate, 0, .faulted (.addressingFetch 0x400#32)⟩ ∧
    macroStep 9 0 sFaultedLate = ⟨sFaultedLate, 0, .faulted (.addressingFetch 0x400#32)⟩ := by decide

/-- R242: slot 1 is MAIN1_ADDR here; slot 0 adds 1 to PC and goes to slot 1, whose no-op goes back. -/
def sMacro : State :=
  { core [(0, 0b000000001_000_00_110101_000000100_000_0001#36), (1, 0x000000009#36)] fun x => { x with pc := 0#32 } with
    cfg := { Config.suggested with main1Addr := 1#9 } }
theorem wit_MacroStep :
    sMacro.fault = none ∧ ((macroStep 9 2 sMacro).ending, (macroStep 9 2 sMacro).ticks) = (.countReached, 3) ∧
    boundariesIn 3 0#32 sMacro = 2 ∧ ((macroStep 2 2 sMacro).ending, (macroStep 2 2 sMacro).ticks) = (.boundReached, 2) ∧
    (macroStep 9 1 (addBreakpoint (.microLine 0) (addBreakpoint (.microLine 0x102) sP1full))).ending = .vetoed ∧
    (macroStep 9 1 sF3b).ending = .faulted (.addressingFetch 0x400#32) ∧ (macroStep 9 1 sF6).ending = .stuck := by decide

theorem wit_FirstTickRuns :
    sF9.fault = none ∧ sF9.halted = false ∧ currentSlot sF9 ≠ none ∧ StepsSafely { sF9 with ticks := 0 } ∧
    canContinue (addBreakpoint (.microLine 0) sF9) = false :=
  ⟨rfl, rfl, by decide, ⟨_, rfl, rfl⟩, by decide⟩

theorem wit_BreakpointRequests :
    BreakpointRequest.kind (.microLine 511) = some (.microLine 511#9) ∧ (∀ b ∈ State.reset.breakpoints, b.kind ≠ .microLine 511#9) ∧
    512 ≤ 0x200 ∧ (∀ b ∈ twoBreakpoints.breakpoints, b.id ≠ 7) ∧
    twoBreakpoints.breakpoints = [] ++ (⟨0, .register .opc 1#32⟩ : Breakpoint) :: [⟨1, .microLine 2#9⟩] ∧
    (∀ x ∈ ([] ++ [⟨1, .microLine 2#9⟩] : List Breakpoint), x.id ≠ 0) := by decide

end Sys2Proof.Tests
end

/-! # What a tick can answer, and the invariant it keeps

A tick that answers a next state is one of three: the raise of an illegal shifter pair after phase 1, the raise of an illegal memory
operation after phase 2, or the completed tick. `tick_eq_next` says so once; each of the three keeps `State.Inv`. -/

namespace Sys2Proof.Machine

/-! ## The state of phase 3 -/

/-- The state after the first two phases of a tick whose shifter pair is legal (R232, R233). -/
def afterPhase2 (mi : MicroInstr) (s : State) : State :=
  let u := driveC (shifted mi.sh (aluWord mi.alu s.regs.h (busB s.cfg.bsel mi.b s.regs))) (computed mi s)
  fill (latchFlags { u with regs := writeC mi.c u.shOut u.regs })

@[simp] theorem afterPhase2_cfg (mi : MicroInstr) (s : State) : (afterPhase2 mi s).cfg = s.cfg := fill_cfg _
@[simp] theorem afterPhase2_cs (mi : MicroInstr) (s : State) : (afterPhase2 mi s).cs = s.cs := fill_cs _
@[simp] theorem afterPhase2_mpc (mi : MicroInstr) (s : State) : (afterPhase2 mi s).mpc = s.mpc := fill_mpc _
@[simp] theorem afterPhase2_mir (mi : MicroInstr) (s : State) : (afterPhase2 mi s).mir = some mi := fill_mir _
@[simp] theorem afterPhase2_halted (mi : MicroInstr) (s : State) : (afterPhase2 mi s).halted = s.halted := fill_halted _
@[simp] theorem afterPhase2_fault (mi : MicroInstr) (s : State) : (afterPhase2 mi s).fault = s.fault := fill_fault _
@[simp] theorem afterPhase2_mem (mi : MicroInstr) (s : State) : (afterPhase2 mi s).mem = s.mem := fill_mem _
@[simp] theorem afterPhase2_alu (mi : MicroInstr) (s : State) : (afterPhase2 mi s).alu = (computed mi s).alu := fill_alu _

@[simp] theorem afterPhase2_mpcc_out (mi : MicroInstr) (s : State) : (afterPhase2 mi s).mpcc.out = s.mpcc.out := by
  rw [afterPhase2, fill_mpcc]
  rfl

@[simp] theorem afterPhase2_pendWord (mi : MicroInstr) (s : State) : (afterPhase2 mi s).memu.pendWord = none :=
  congrArg MemUnit.pendWord (fill_memu _)

@[simp] theorem afterPhase2_pendByte (mi : MicroInstr) (s : State) : (afterPhase2 mi s).memu.pendByte = none :=
  congrArg MemUnit.pendByte (fill_memu _)

theorem afterPhase2_regs (mi : MicroInstr) (s : State) :
    (afterPhase2 mi s).regs = deliver s.memu.pendWord s.memu.pendByte
      (writeC mi.c (shifted mi.sh (aluWord mi.alu s.regs.h (busB s.cfg.bsel mi.b s.regs))) s.regs) :=
  fill_regs _

/-- R174: the illegal shifter pair ends the tick in phase 1. -/
theorem tick_illegalShifter {mi : MicroInstr} {s : State} (hf : s.fault = none) (hg : (mi.sh.sll8 && mi.sh.sra1) = true) :
    tick mi s = .next (raise (.illegalShifter s.mpc (some mi)) (computed mi s)) := by
  rw [tick, phase1_eq _ _ hf, if_pos hg]
  exact andThen_raised (raise_fault _ _) _

/-- With a legal shifter pair a tick is phase 3 of the state the first two phases leave. -/
theorem tick_legalShifter {mi : MicroInstr} {s : State} (hf : s.fault = none) (hg : (mi.sh.sll8 && mi.sh.sra1) = false) :
    tick mi s = phase3 mi (afterPhase2 mi s) := by
  rw [tick, phase1_eq _ _ hf, if_neg (by simp [hg]), andThen_next (by exact hf), phase2_eq _ _ (by exact hf)]
  exact andThen_next (by rw [← hf]; exact afterPhase2_fault mi s) _

/-! ## The memory operation -/

/-- When the memory operation `g` of a tick makes its accesses, in the state `u` after phase 2: the pair is legal, both addresses are
valid, and a READ of the port finds a byte (R214, R210 to R212, R78). -/
structure AccessOk (g : MemSig) (u : State) : Prop where
  legal : (g.read && g.write) = false
  byteAddr : g.fetch = true → validByteAddr u.cfg u.regs.pc = true
  wordAddr : g.read = true ∨ g.write = true → validPortAddr u.cfg u.regs.mar = true
  input : g.read = true → u.regs.mar = u.cfg.ioAddr → nextInput u.input ≠ none

/-- R277 item 3: validation raises, or every address staged for an access is valid and it changes nothing. -/
theorem validateStaged_cases (s : State) :
    (∃ f, validateStaged s = raise f s) ∨
    (validateStaged s = s ∧ (s.memu.fetch = true → validByteAddr s.cfg s.memu.byteAddr = true) ∧
      (s.memu.read = true ∨ s.memu.write = true → validPortAddr s.cfg s.memu.wordAddr = true)) := by
  unfold validateStaged
  split
  · exact .inl ⟨_, rfl⟩
  next hfetch =>
  split
  · exact .inl ⟨_, rfl⟩
  next hread =>
  split
  · exact .inl ⟨_, rfl⟩
  next hwrite =>
  refine .inr ⟨rfl, by simpa using hfetch, ?_⟩
  rintro (h | h)
  · simpa [h] using hread
  · simpa [h] using hwrite

/-- R78: where a READ of the port finds no byte, the accesses have no next state. -/
theorem runOps_accesses_stuck {g : MemSig} {u : State} (hf : u.fault = none) (hw : g.write = false)
    (hb : g.fetch = true → validByteAddr u.cfg u.regs.pc = true) (hr : g.read = true)
    (hio : u.regs.mar = u.cfg.ioAddr) (hin : nextInput u.input = none) :
    runOps (accessOrder g (stageMem g u)) (countDraw g (stageMem g u)) = .fault .awaitingInput := by
  have hrace : isRace g (stageMem g u) = false := by simp [isRace, hw]
  have hread : ∀ v : State, v.cfg = u.cfg → v.regs = u.regs → v.input = u.input →
      runOps [.read] v = .fault .awaitingInput := by
    intro v hc hx hi
    simp [runOps, exec, execRead, applyRead, andThen, hc, hx, hi, hio, hin]
  have hrows : g.accessRows = opIf g.fetch .fetch ++ [.read] := by simp [MemSig.accessRows, opIf, hr, hw]
  simp only [accessOrder, countDraw, hrace, Bool.false_and, Bool.false_eq_true, if_false, hrows, runOps_opIf]
  split
  · next hfetch =>
    have he : exec .fetch (stageMem g u) = .next { stageMem g u with
        memu := { (stageMem g u).memu with fetch := true, pendByte := some (readByte u.mem u.regs.pc.toNat) }
        lastMacroAddr := some u.regs.pc } := by
      simp [exec, execFetch, applyFetch, hb hfetch, stageMem]
    rw [runOps_cons_next he (by exact hf)]
    exact hread _ rfl rfl rfl
  · exact hread _ rfl rfl rfl

/-- Everything the memory operation of a tick can answer as a next state: a raise before any access, or its accesses. -/
theorem memoryPhase_eq_next {mi : MicroInstr} {u t : State} (hf : u.fault = none) (hp : u.memu.pendWord = none)
    (hq : u.memu.pendByte = none) (h : memoryPhase mi u = .next t) :
    (∃ f, t = raise f (stageMem mi.mem u)) ∨ (AccessOk mi.mem u ∧ t = accessed mi.mem u) := by
  cases hl : mi.mem.read && mi.mem.write with
  | true =>
    have hraise : memoryPhase mi u = .next (raise (.illegalReadWrite u.mpc u.mir) (stageMem mi.mem u)) := by
      simp only [memoryPhase, MemSig.illegalRows, hl]
      rfl
    rw [hraise] at h
    cases h
    exact .inl ⟨_, rfl⟩
  | false =>
    obtain ⟨f, hv⟩ | ⟨-, hbyte, hword⟩ := validateStaged_cases (stageMem mi.mem u)
    · have hraise : memoryPhase mi u = .next (raise f (stageMem mi.mem u)) := by
        simp only [memoryPhase, MemSig.illegalRows, hl, opIf, Bool.false_eq_true, if_false, runOps_nil]
        rw [andThen_next (by exact hf), hv, andThen_raised (raise_fault _ _)]
      rw [hraise] at h
      cases h
      exact .inl ⟨f, rfl⟩
    · rw [memoryPhase_ok _ _ hf hl hbyte hword] at h
      have hinput : mi.mem.read = true → u.regs.mar = u.cfg.ioAddr → nextInput u.input ≠ none := by
        intro hr hio hin
        rw [runOps_accesses_stuck hf (by simpa [hr] using hl) hbyte hr hio hin] at h
        cases h
      rw [runOps_accesses _ _ hf hl hbyte hword hinput hp hq] at h
      cases h
      exact .inr ⟨⟨hl, hbyte, hword, hinput⟩, rfl⟩

/-! ## The three next states of a tick -/

/-- The address a tick goes to, in the state `u` after phase 2 (R180). -/
def nextFrom (mi : MicroInstr) (u : State) : MAddr :=
  nextAddress mi.addr mi.jam (lowByte u.regs.mbr) u.mpcc.n u.mpcc.z

/-- The state of a completed tick, from the state `u` after phase 2 (R234). -/
def completed (mi : MicroInstr) (u : State) : State :=
  finishTick mi (steer (nextFrom mi u) { accessed mi.mem u with prevMpc := u.mpc })

@[simp] theorem completed_cfg (mi : MicroInstr) (u : State) : (completed mi u).cfg = u.cfg := rfl
@[simp] theorem completed_cs (mi : MicroInstr) (u : State) : (completed mi u).cs = u.cs := rfl
@[simp] theorem completed_mir (mi : MicroInstr) (u : State) : (completed mi u).mir = u.mir := rfl
@[simp] theorem completed_alu (mi : MicroInstr) (u : State) : (completed mi u).alu = u.alu := rfl
@[simp] theorem completed_memu (mi : MicroInstr) (u : State) : (completed mi u).memu = (accessed mi.mem u).memu := rfl

/-- Everything phase 3 can answer as a next state. -/
theorem phase3_eq_next {mi : MicroInstr} {u t : State} (hf : u.fault = none) (hp : u.memu.pendWord = none)
    (hq : u.memu.pendByte = none) (h : phase3 mi u = .next t) :
    (∃ f, t = raise f (stageMem mi.mem u)) ∨ (AccessOk mi.mem u ∧ t = completed mi u) := by
  obtain ⟨hm, hfault⟩ | ⟨v, hm, hv, h⟩ := andThen_eq_next h
  · obtain hraise | ⟨-, rfl⟩ := memoryPhase_eq_next hf hp hq hm
    · exact .inl hraise
    · rw [show (accessed mi.mem u).fault = none from hf] at hfault
      cases hfault
  · obtain ⟨f, rfl⟩ | ⟨hok, rfl⟩ := memoryPhase_eq_next hf hp hq hm
    · cases hv
    · rw [runOps_nextOps _ _ hv, andThen_next (by exact hv)] at h
      cases h
      exact .inr ⟨hok, rfl⟩

/-- Everything a tick can answer as a next state (R231). -/
theorem tick_eq_next {mi : MicroInstr} {s t : State} (hf : s.fault = none) (h : tick mi s = .next t) :
    (∃ f, t = raise f (computed mi s)) ∨ (∃ f, t = raise f (stageMem mi.mem (afterPhase2 mi s))) ∨
    (AccessOk mi.mem (afterPhase2 mi s) ∧ t = completed mi (afterPhase2 mi s)) := by
  cases hg : mi.sh.sll8 && mi.sh.sra1 with
  | true =>
    rw [tick_illegalShifter hf hg] at h
    cases h
    exact .inl ⟨_, rfl⟩
  | false =>
    rw [tick_legalShifter hf hg] at h
    exact .inr (phase3_eq_next (by simp [hf]) (by simp) (by simp) h)

/-! ## The parts of the invariant -/

/-- R22: MBR is a sign-extended byte and MBRU its zero-extended low byte. -/
def MbrPair (x : RegFile) : Prop := x.mbr = sext8 (lowByte x.mbr) ∧ x.mbru = x.mbr &&& 0xFF#32

theorem State.Inv.mbrPair {s : State} (h : s.Inv) : MbrPair s.regs := ⟨h.mbr, h.mbru⟩

theorem lowByte_sext8 (c : Byte) : lowByte (sext8 c) = c := by
  ext i hi
  have hi32 : i < 32 := by omega
  simp [lowByte, sext8, BitVec.getElem_signExtend, BitVec.getLsbD_eq_getElem, hi, hi32]

theorem and_low (v : Word) : v &&& 0xFF#32 = zext8 (lowByte v) := by
  apply BitVec.eq_of_toNat_eq
  have hmask : v.toNat &&& 255 = v.toNat % 2 ^ 8 := Nat.and_two_pow_sub_one_eq_mod v.toNat 8
  rw [BitVec.toNat_and, show (0xFF#32).toNat = 255 from rfl, hmask]
  simp only [zext8, lowByte, BitVec.toNat_setWidth]
  omega

theorem sext8_and_low (c : Byte) : sext8 c &&& 0xFF#32 = zext8 c := by
  rw [and_low, lowByte_sext8]

/-- R194, R196, R216: the C bus does not reach the pair, and the fill delivers a byte to both registers. -/
theorem mbrPair_deliver_writeC {x : RegFile} (h : MbrPair x) (g : CSet) (v : Word) (word : Option Word) (byte : Option Byte) :
    MbrPair (deliver word byte (writeC g v x)) := by
  cases byte with
  | none => exact h
  | some c => exact ⟨(congrArg sext8 (lowByte_sext8 c)).symm, (sext8_and_low c).symm⟩

theorem mbrPair_afterPhase2 {s : State} (h : MbrPair s.regs) (mi : MicroInstr) : MbrPair (afterPhase2 mi s).regs := by
  rw [afterPhase2_regs]
  exact mbrPair_deliver_writeC h ..

/-- R185: a word with bit 31 set is not 0. -/
theorem flags_exclusive (out : Word) : (negativeFlag out && zeroFlag out) = false := by
  cases hz : zeroFlag out with
  | false => exact Bool.and_false _
  | true =>
    have h0 : out = 0#32 := by simpa [zeroFlag] using hz
    subst h0
    rfl

theorem computed_flags (mi : MicroInstr) (s : State) : ((computed mi s).alu.n && (computed mi s).alu.z) = false :=
  flags_exclusive _

/-- The canonical form inside the address space, taken apart. -/
theorem cellsOk_iff (limit : Nat) (m : Memory) : cellsOk limit m = true ↔ Memory.wf m = true ∧ ∀ x ∈ m, x.1 < limit := by
  simp only [cellsOk, wf_iff, unlistedByte, Bool.and_eq_true, decide_eq_true_eq, List.all_eq_true, bne_iff_ne]
  constructor
  · exact fun ⟨hs, hc⟩ => ⟨⟨hs, fun x hx => (hc x hx).2⟩, fun x hx => (hc x hx).1⟩
  · exact fun ⟨⟨hs, hn⟩, hb⟩ => ⟨hs, fun x hx => ⟨hb x hx, hn x hx⟩⟩

/-- R61, R69: a word write at a valid address keeps memory canonical and inside the address space. -/
theorem cellsOk_writeWord {c : Config} {m : Memory} {w : Word} (h : cellsOk (4 * c.memWords) m = true)
    (hw : validWordAddr c w = true) (v : Word) : cellsOk (4 * c.memWords) (writeWord m w.toNat v) = true := by
  obtain ⟨hwf, hbound⟩ := (cellsOk_iff _ m).mp h
  have hlt : w.toNat < c.memWords := by simpa [validWordAddr] using hw
  exact (cellsOk_iff _ _).mpr ⟨wf_writeWord hwf _ v, writeWord_bound hbound (by omega)⟩

/-! ## The invariant of each next state -/

/-- R239: halting at an empty slot keeps the invariant. -/
theorem inv_haltAtEmptySlot {s : State} (h : s.Inv) (hs : currentSlot s = none) : (haltAtEmptySlot s).Inv where
  cfg := h.cfg
  mem := h.mem
  cs := h.cs
  mbr := h.mbr
  mbru := h.mbru
  pendWord := h.pendWord
  pendByte := h.pendByte
  flags := h.flags
  steered := h.steered
  halted := fun _ => .inl hs

/-- What a raise may leave behind: a state `u` that keeps the fixtures, memory, the cursor and `halted` of `s` (R231, R279). The pending
results are of no account, since the core is faulted. -/
theorem inv_raise {s u : State} (h : s.Inv) (hcfg : u.cfg = s.cfg) (hcs : u.cs = s.cs) (hmem : u.mem = s.mem)
    (hmpc : u.mpc = s.mpc) (hout : u.mpcc.out = s.mpcc.out) (hhalted : u.halted = s.halted) (hpair : MbrPair u.regs)
    (hflags : (u.alu.n && u.alu.z) = false) (f : FaultRecord) : (raise f u).Inv where
  cfg := by simpa [hcfg] using h.cfg
  mem := by simpa [hcfg, hmem] using h.mem
  cs := by simpa [hcs] using h.cs
  mbr := hpair.1
  mbru := hpair.2
  pendWord := nofun
  pendByte := nofun
  flags := hflags
  steered := by simpa [hout, hmpc] using h.steered
  halted := by simpa [currentSlot, hhalted, hcs, hmpc] using h.halted

/-- R174: the raise of phase 1 keeps the invariant. -/
theorem inv_raise_computed {s : State} (h : s.Inv) (mi : MicroInstr) (f : FaultRecord) : (raise f (computed mi s)).Inv :=
  inv_raise (u := computed mi s) h rfl rfl rfl rfl rfl rfl h.mbrPair (computed_flags mi s) f

/-- R214, R277: the raise of phase 3 keeps the invariant. -/
theorem inv_raise_staged {s : State} (h : s.Inv) (mi : MicroInstr) (f : FaultRecord) :
    (raise f (stageMem mi.mem (afterPhase2 mi s))).Inv :=
  inv_raise (u := stageMem mi.mem (afterPhase2 mi s)) h (by simp) (by simp) (by simp) (by simp) (by simp) (by simp)
    (mbrPair_afterPhase2 h.mbrPair mi) (by simpa only [stageMem_alu, afterPhase2_alu] using computed_flags mi s) f

/-- R212: the accesses of a tick keep memory canonical and inside the address space. -/
theorem cellsOk_accessed {g : MemSig} {u : State} (hok : AccessOk g u) (h : cellsOk (4 * u.cfg.memWords) u.mem = true) :
    cellsOk (4 * u.cfg.memWords) (accessed g u).mem = true := by
  simp only [accessed]
  split
  · next hw =>
    obtain ⟨hwrite, hport⟩ : g.write = true ∧ u.regs.mar ≠ u.cfg.ioAddr := by simpa using hw
    have hvalid : validWordAddr u.cfg u.regs.mar = true := by
      simpa [validPortAddr, hport] using hok.wordAddr (.inr hwrite)
    exact cellsOk_writeWord h hvalid _
  · exact h

/-- R218: after the accesses a word is pending exactly when the tick had READ. -/
theorem accessed_pendWord_isSome {g : MemSig} {u : State} (hok : AccessOk g u) :
    (accessed g u).memu.pendWord.isSome = g.read := by
  simp only [accessed]
  split
  · next hr =>
    split
    · next hio => simp [hr, Option.isSome_iff_ne_none, hok.input hr hio]
    · exact hr.symm
  · next hr => simpa using hr

/-- R218: after the accesses a byte is pending exactly when the tick had FETCH. -/
theorem accessed_pendByte_isSome (g : MemSig) (u : State) : (accessed g u).memu.pendByte.isSome = g.fetch := by
  simp only [accessed]
  split
  · next hfetch => split <;> exact hfetch.symm
  · next hfetch => simpa using hfetch

/-- R237: a microinstruction with no jump signal goes to its own `Addr`. -/
theorem nextFrom_of_isNopOrHalt {mi : MicroInstr} (h : isNopOrHalt mi = true) (u : State) : nextFrom mi u = mi.addr := by
  have hjam : mi.jam = MicroInstr.blank.jam := by
    simp only [isNopOrHalt, Bool.and_eq_true, beq_iff_eq] at h
    exact h.2
  simp [nextFrom, nextAddress, hjam, MicroInstr.blank, jumpTaken, setBit8]

/-- R236, R237: a completed tick that halts stands at an empty slot, or at its own microinstruction, a no-op that names its slot. -/
theorem completed_halted {mi : MicroInstr} {u : State} (hslot : currentSlot u = some mi) (h : (completed mi u).halted = true) :
    currentSlot (completed mi u) = none ∨
    ∃ m, currentSlot (completed mi u) = some m ∧ isNopOrHalt m = true ∧ m.addr = (completed mi u).mpc := by
  have hterm : (isNopOrHalt mi = true ∧ nextFrom mi u = u.mpc) ∨ currentSlot (completed mi u) = none := by
    simpa [completed, isTerminal, currentSlot] using h
  obtain ⟨hnop, hself⟩ | hempty := hterm
  · refine .inr ⟨mi, ?_, hnop, (nextFrom_of_isNopOrHalt hnop u).symm⟩
    rw [← hslot]
    exact congrArg (slotAt u.cs) hself
  · exact .inl hempty

/-- R231: a completed tick keeps the invariant. -/
theorem inv_completed {s : State} {mi : MicroInstr} (h : s.Inv) (hslot : currentSlot s = some mi)
    (hok : AccessOk mi.mem (afterPhase2 mi s)) : (completed mi (afterPhase2 mi s)).Inv where
  cfg := by simpa using h.cfg
  mem := cellsOk_accessed hok (by simpa using h.mem)
  cs := by simpa using h.cs
  mbr := (mbrPair_afterPhase2 h.mbrPair mi).1
  mbru := (mbrPair_afterPhase2 h.mbrPair mi).2
  pendWord := fun _ => by simpa [lastHad] using accessed_pendWord_isSome hok
  pendByte := fun _ => by simpa [lastHad] using accessed_pendByte_isSome mi.mem (afterPhase2 mi s)
  flags := by simpa only [completed_alu, afterPhase2_alu] using computed_flags mi s
  steered := rfl
  halted := completed_halted (by simpa [currentSlot] using hslot)

/-- Settles O43: a step that answers a next state halts at an empty slot, raises after phase 1 or in phase 3, or completes its tick,
and each of the four keeps the invariant. -/
theorem stepKeepsTheInvariant : Obligations.StepKeepsTheInvariant := by
  intro s t hinv hstep
  obtain ⟨hf, ⟨hempty, rfl⟩ | ⟨mi, hslot, htick⟩⟩ := step_eq_next hstep
  · exact inv_haltAtEmptySlot hinv hempty
  · obtain ⟨f, rfl⟩ | ⟨f, rfl⟩ | ⟨hok, rfl⟩ := tick_eq_next hf htick
    · exact inv_raise_computed hinv mi f
    · exact inv_raise_staged hinv mi f
    · exact inv_completed hinv hslot hok

end Sys2Proof.Machine

/-! # What a step keeps, and what it counts (10_state.md)

`step_completed` and `step_counts` say what a step from a filled slot can leave; the frame of the registers, the fixtures, the streams
and the tick count of a stepping call follow from them. -/

namespace Sys2Proof.Machine

/-! ## Registers -/

/-- A step from a filled slot that raises nothing is the completed tick (R231). -/
theorem step_completed {s t : State} {mi : MicroInstr} (hslot : currentSlot s = some mi) (hstep : step s = .next t)
    (ht : t.fault = none) : AccessOk mi.mem (afterPhase2 mi s) ∧ t = completed mi (afterPhase2 mi s) := by
  obtain ⟨hf, -⟩ := step_eq_next hstep
  rw [step_of_slot hf hslot] at hstep
  obtain ⟨f, rfl⟩ | ⟨f, rfl⟩ | hcompleted := tick_eq_next hf hstep
  · cases ht
  · cases ht
  · exact hcompleted

@[simp] theorem completed_regs (mi : MicroInstr) (u : State) : (completed mi u).regs = u.regs := rfl

/-- R194: the C bus changes only the registers of its set, and never the MBR pair. -/
theorem writeC_frame (g : CSet) (v : Word) (x : RegFile) :
    (g.mar = false → (writeC g v x).mar = x.mar) ∧ (g.pc = false → (writeC g v x).pc = x.pc) ∧
    (g.sp = false → (writeC g v x).sp = x.sp) ∧ (g.lv = false → (writeC g v x).lv = x.lv) ∧
    (g.cpp = false → (writeC g v x).cpp = x.cpp) ∧ (g.tos = false → (writeC g v x).tos = x.tos) ∧
    (g.opc = false → (writeC g v x).opc = x.opc) ∧ (g.h = false → (writeC g v x).h = x.h) ∧
    (g.mdr = false → (writeC g v x).mdr = x.mdr) ∧ (writeC g v x).mbr = x.mbr ∧ (writeC g v x).mbru = x.mbru := by
  simp +contextual [writeC]

/-- Settles O39: after a completed tick the registers are what the C bus and then the fill leave; the fill writes only MDR and the MBR
pair, and those only where a result is pending. -/
theorem tickLeavesUnnamedRegistersAlone : Obligations.TickLeavesUnnamedRegistersAlone := by
  intro s t mi _ hslot hstep ht
  obtain ⟨-, rfl⟩ := step_completed hslot hstep ht
  rw [completed_regs, afterPhase2_regs]
  obtain ⟨hmar, hpc, hsp, hlv, hcpp, htos, hopc, hh, hmdr, hmbr, hmbru⟩ := writeC_frame mi.c
    (shifted mi.sh (aluWord mi.alu s.regs.h (busB s.cfg.bsel mi.b s.regs))) s.regs
  refine ⟨hmar, hpc, hsp, hlv, hcpp, htos, hopc, hh, fun hbit hword => ?_, fun hbyte => ?_⟩
  · rw [hword]
    exact hmdr hbit
  · rw [hbyte]
    exact ⟨hmbr, hmbru⟩

/-! ## Fixtures and streams -/

@[simp] theorem afterPhase2_output (mi : MicroInstr) (s : State) : (afterPhase2 mi s).output = s.output := fill_output _
@[simp] theorem afterPhase2_input (mi : MicroInstr) (s : State) : (afterPhase2 mi s).input = s.input := fill_input _

theorem sameFixtures_afterPhase2 (mi : MicroInstr) (s : State) : SameFixtures s (afterPhase2 mi s) :=
  ⟨fill_cfg _, fill_cs _, fill_breakpoints _, fill_nextBreakpointId _⟩

/-- R76: the accesses of a tick append at most one byte to the output. -/
theorem accessed_output (g : MemSig) (u : State) :
    (accessed g u).output = u.output ∨ ∃ c : Byte, (accessed g u).output = u.output ++ [c] := by
  simp only [accessed]
  split
  · exact .inr ⟨_, rfl⟩
  · exact .inl rfl

/-- R77: the accesses of a tick take at most the first byte of the input. -/
theorem accessed_input (g : MemSig) (u : State) :
    (accessed g u).input = u.input ∨ ∃ c : Byte, nextInput u.input = some (c, (accessed g u).input) := by
  simp only [accessed]
  split
  · cases hin : nextInput u.input with
    | none => exact .inl rfl
    | some x => exact .inr ⟨x.1, rfl⟩
  · exact .inl rfl

/-- Settles O41: only the accesses of a completed tick touch a stream, and nothing a tick does touches a fixture. -/
theorem stepKeepsFixturesAndStreamsMoveForward : Obligations.StepKeepsFixturesAndStreamsMoveForward := by
  intro s t hstep
  obtain ⟨hf, ⟨-, rfl⟩ | ⟨mi, -, htick⟩⟩ := step_eq_next hstep
  · exact ⟨⟨rfl, rfl, rfl, rfl⟩, .inl rfl, .inl rfl⟩
  · have hfix := sameFixtures_afterPhase2 mi s
    obtain ⟨f, rfl⟩ | ⟨f, rfl⟩ | ⟨-, rfl⟩ := tick_eq_next hf htick
    · exact ⟨⟨rfl, rfl, rfl, rfl⟩, .inl rfl, .inl rfl⟩
    · exact ⟨hfix, .inl (afterPhase2_output mi s), .inl (afterPhase2_input mi s)⟩
    · have hout := accessed_output mi.mem (afterPhase2 mi s)
      have hin := accessed_input mi.mem (afterPhase2 mi s)
      rw [afterPhase2_output] at hout
      rw [afterPhase2_input] at hin
      exact ⟨hfix, hout, hin⟩

/-! ## Reset -/

/-- R313: a core constructed from legal parameters, control store and memory satisfies the invariant. -/
theorem inv_constructed {c : Config} {cs : ControlStore} {mem : Memory} (hc : c.wf = true) (hcs : cs.wf = true)
    (hmem : cellsOk (4 * c.memWords) mem = true) : (State.constructed c cs mem).Inv where
  cfg := hc
  mem := hmem
  cs := hcs
  mbr := rfl
  mbru := by simp [State.constructed, RegFile.afterReset]
  pendWord := fun _ => rfl
  pendByte := fun _ => rfl
  flags := rfl
  steered := rfl
  halted := nofun

/-- Settles O44: the state after reset is a constructed core, and the suggested parameters are legal. -/
theorem resetStateSatisfiesTheInvariant : Obligations.ResetStateSatisfiesTheInvariant :=
  inv_constructed (by decide) (by decide) (by decide)

/-- Settles O50: each field is read off the definition of reset (R45, R310, R311). -/
theorem resetRestoresDefaultsAndKeepsMemory : Obligations.ResetRestoresDefaultsAndKeepsMemory := by
  intro s
  exact ⟨rfl, rfl, rfl, rfl, rfl, rfl, rfl, rfl, rfl, rfl, rfl, rfl, rfl, rfl, rfl, rfl, rfl, rfl, rfl, rfl, rfl⟩

/-- R210, R277 item 3: a FETCH at an invalid byte address raises before any access. -/
theorem memoryPhase_addressingFetch {mi : MicroInstr} {u : State} (hf : u.fault = none)
    (hl : (mi.mem.read && mi.mem.write) = false) (hfetch : mi.mem.fetch = true)
    (hbad : validByteAddr u.cfg u.regs.pc = false) :
    memoryPhase mi u = .next (raise (.addressingFetch u.regs.pc) (stageMem mi.mem u)) := by
  have hv : validateStaged (stageMem mi.mem u) = raise (.addressingFetch u.regs.pc) (stageMem mi.mem u) :=
    if_pos (by simp [stageMem, hfetch, hbad])
  simp only [memoryPhase, MemSig.illegalRows, hl, opIf, Bool.false_eq_true, if_false, runOps_nil]
  rw [andThen_next (by exact hf), hv, andThen_raised (raise_fault _ _)]

/-- R45: the reset value of PC is not a valid byte address. -/
theorem validByteAddr_resetPc {c : Config} (h : c.wf = true) : validByteAddr c c.resetPc = false := by
  have hpc : 4 * c.memWords ≤ c.resetPc.toNat := by
    simp only [Config.wf, Bool.and_eq_true, decide_eq_true_eq] at h
    tauto
  simpa [validByteAddr] using hpc

/-- R426: a tick that does not name PC as a destination leaves it alone. -/
theorem afterPhase2_pc {mi : MicroInstr} (h : mi.c.pc = false) (s : State) : (afterPhase2 mi s).regs.pc = s.regs.pc := by
  simp [afterPhase2_regs, deliver, writeC, h]

/-- R106, R107: legality as the conditions under which no phase raises for a signal pair. -/
theorem legal_iff (mi : MicroInstr) :
    mi.legal = true ↔ (mi.sh.sll8 && mi.sh.sra1) = false ∧ (mi.mem.read && mi.mem.write) = false := by
  simp only [MicroInstr.legal, ShSig.legal, MemSig.legal, Bool.and_eq_true, Bool.not_eq_true']

/-- R210: a legal microinstruction with FETCH raises in phase 3 where PC, after phase 2, is no valid byte address. -/
theorem tick_addressingFetch {mi : MicroInstr} {s : State} (hf : s.fault = none) (hlegal : mi.legal = true)
    (hfetch : mi.mem.fetch = true) (hbad : validByteAddr s.cfg (afterPhase2 mi s).regs.pc = false) :
    tick mi s = .next (raise (.addressingFetch (afterPhase2 mi s).regs.pc) (stageMem mi.mem (afterPhase2 mi s))) := by
  obtain ⟨hsh, hmem⟩ := (legal_iff mi).mp hlegal
  rw [tick_legalShifter hf hsh, phase3, memoryPhase_addressingFetch (by simp [hf]) hmem hfetch (by simpa using hbad)]
  exact andThen_raised (raise_fault _ _) _

/-- Settles O51: no phase before the FETCH writes PC, so it is staged at the reset sentinel, which no legal parameters make valid. -/
theorem fetchAtTheResetSentinelFaults : Obligations.FetchAtTheResetSentinelFaults := by
  intro s mi hwf hslot hlegal hfetch hpc
  have hsentinel : (afterPhase2 mi (resetMachine s)).regs.pc = s.cfg.resetPc := afterPhase2_pc hpc _
  have htick := tick_addressingFetch (s := resetMachine s) rfl hlegal hfetch (hsentinel ▸ validByteAddr_resetPc hwf)
  rw [hsentinel, ← step_of_slot rfl (by exact hslot)] at htick
  exact ⟨_, htick, rfl, afterPhase2_pendByte mi _, afterPhase2_mem mi _, afterPhase2_mpc mi _⟩

/-! ## The ticks a call counts -/

@[simp] theorem afterPhase2_ticks (mi : MicroInstr) (s : State) : (afterPhase2 mi s).ticks = s.ticks := fill_ticks _
@[simp] theorem completed_ticks (mi : MicroInstr) (u : State) : (completed mi u).ticks = u.ticks + 1 := rfl

/-- R30, R231: a tick is counted when it completes, and not when it raises. -/
theorem step_counts {s t : State} {mi : MicroInstr} (hslot : currentSlot s = some mi) (hstep : step s = .next t) :
    t.ticks = if t.fault = none then s.ticks + 1 else s.ticks := by
  obtain ⟨hf, -⟩ := step_eq_next hstep
  rw [step_of_slot hf hslot] at hstep
  obtain ⟨f, rfl⟩ | ⟨f, rfl⟩ | ⟨-, rfl⟩ := tick_eq_next hf hstep
  · rfl
  · exact afterPhase2_ticks mi s
  · rw [if_pos (by rw [← hf]; exact afterPhase2_fault mi s), completed_ticks, afterPhase2_ticks]

/-- The report of a call with `n` ticks still allowed from a state that has counted `k`: it holds the tick counter of the state left, at
most `k + n` and exactly that where the count ends the call (R241). -/
structure CountsFrom (k n : Nat) (r : CallReport) : Prop where
  counter : r.state.ticks = r.ticks
  bound : r.ticks ≤ k + n
  countReached : r.ending = .countReached → r.ticks = k + n

/-- A call may end before its count is used up, if it is not named `countReached`. -/
theorem countsFrom_endCall {k n : Nat} {e : CallEnd} {u : State} (hk : u.ticks = k) (he : e ≠ .countReached) :
    CountsFrom k n (endCall e u) where
  counter := rfl
  bound := by simp [endCall, hk]
  countReached := fun h => absurd h he

theorem countsFrom_endUsedUp (s : State) : CountsFrom s.ticks 0 (endUsedUp .countReached s) :=
  ⟨rfl, Nat.le_refl _, fun _ => rfl⟩

/-- The tick of a call, and what follows it, counts from the state before the tick. -/
theorem countsFrom_tickThen {s : State} {mi : MicroInstr} {n : Nat} {goOn : State → CallReport} (hslot : currentSlot s = some mi)
    (hgoOn : ∀ t, CountsFrom t.ticks n (goOn t)) : CountsFrom s.ticks (n + 1) (tickThen goOn s) := by
  obtain ⟨t, hstep, ht, h⟩ | ⟨t, f, hstep, ht, h⟩ | ⟨f, -, h⟩ | ⟨-, h⟩ | ⟨r, -, h⟩ := tickThen_cases goOn s
  · have hcount : t.ticks + n = s.ticks + (n + 1) := by
      rw [step_counts hslot hstep, if_pos ht]
      omega
    obtain ⟨hcounter, hbound, hreached⟩ := hgoOn t
    rw [h]
    exact ⟨hcounter, hcount ▸ hbound, hcount ▸ hreached⟩
  · rw [h]
    exact countsFrom_endCall (by simp [step_counts hslot hstep, ht]) nofun
  all_goals
    rw [h]
    exact countsFrom_endCall rfl nofun

/-- R241: by induction on the ticks still allowed. -/
theorem microLoop_countsFrom (mayGo : State → Bool) (n : Nat) :
    ∀ (first : Bool) (s : State), CountsFrom s.ticks n (microLoop mayGo n first s) := by
  induction n with
  | zero => exact fun _ => countsFrom_endUsedUp
  | succ n ih =>
    intro first s
    rw [microLoop]
    obtain ⟨f, -, h⟩ | ⟨-, -, h⟩ | ⟨-, -, -, -, h⟩ | ⟨-, -, ⟨mi, hslot⟩, -, h⟩ := beforeTick_cases mayGo first s
    case inr.inr.inr =>
      rw [h]
      exact countsFrom_tickThen hslot (ih false)
    all_goals
      rw [h]
      exact countsFrom_endCall rfl nofun

theorem haltAtEmptySlot_of_halted {s : State} (h : s.halted = true) : haltAtEmptySlot s = s := by
  cases s
  cases h
  rfl

/-- R241: on a halted core the loop ends before any tick, whatever its count (log 23). -/
theorem microLoop_of_halted (mayGo : State → Bool) (n : Nat) (first : Bool) {s : State} (hf : s.fault = none)
    (h : s.halted = true) : microLoop mayGo n first s = endCall .halted s := by
  cases n with
  | zero => exact endUsedUp_halted h _
  | succ n => simp [microLoop, beforeTick, hf, h, haltAtEmptySlot_of_halted]

/-- Settles O55: on a faulted core the call is refused and reports 0; on another it is the loop, which counts from 0. -/
theorem microStepCountsAtMostItsBound : Obligations.MicroStepCountsAtMostItsBound := by
  intro mayGo n s
  unfold microStepWith
  obtain hf | ⟨f, hf⟩ := Option.eq_none_or_eq_some s.fault
  · rw [steppingCall_begun hf]
    obtain ⟨hcounter, hbound, hreached⟩ := microLoop_countsFrom mayGo n true { s with ticks := 0 }
    rw [Nat.zero_add] at hbound hreached
    exact ⟨hbound, fun _ => hcounter, hreached, fun _ => microLoop_of_halted mayGo n true (s := { s with ticks := 0 }) hf⟩
  · rw [steppingCall_refused hf]
    exact ⟨Nat.zero_le n, by simp [hf], nofun, by simp [hf]⟩

end Sys2Proof.Machine

/-! # Main memory (20_memory.md)

An IJVM image: reading back what was written, block by block (R86 to R90). -/

namespace Sys2Proof.Machine

/-! ## Big-endian numbers -/

@[simp] theorem length_beBytes (n v : Nat) : (beBytes n v).length = n := by
  induction n with
  | zero => rfl
  | succ n ih => simp [beBytes, ih]

/-- Reading the `n` low bytes of `v` after a number `a` appends them to it. -/
theorem foldl_beBytes (n v a : Nat) :
    (beBytes n v).foldl (fun k b => k * 256 + b.toNat) a = a * 256 ^ n + v % 256 ^ n := by
  induction n generalizing a with
  | zero => simp [beBytes, Nat.mod_one]
  | succ n ih =>
    rw [beBytes, List.foldl_cons, ih, BitVec.toNat_ofNat, Nat.pow_succ 256, Nat.mod_mul (a := 256 ^ n) (b := 256),
      show 2 ^ 8 = 256 from rfl]
    ring

/-- A number that fits `n` bytes is read back from them (R86, R87). -/
theorem beNat_beBytes {n v : Nat} (h : v < 256 ^ n) : beNat (beBytes n v) = v := by
  rw [beNat, foldl_beBytes, Nat.mod_eq_of_lt h, Nat.zero_mul, Nat.zero_add]

/-! ## Blocks of an image -/

/-- A block whose header holds its start and its length, and whose bytes fit memory (R87, R89). -/
structure BlockFits (c : Config) (x : Nat × List Byte) : Prop where
  start : x.1 < 2 ^ 32
  length : x.2.length < 2 ^ 32
  inMemory : x.1 + x.2.length ≤ 4 * c.memWords

/-- The blocks of a list stored one after the other (R90). -/
def storeBlocks (m : Memory) (blocks : List (Nat × List Byte)) : Memory := blocks.foldl (fun m x => storeBytes m x.1 x.2) m

theorem length_blockBytes (x : Nat × List Byte) : (blockBytes x).length = 8 + x.2.length := by
  simp [blockBytes]
  omega

theorem readBlocks_nil (c : Config) (fuel : Nat) (m : Memory) : readBlocks c fuel m [] = .ok m := by
  cases fuel <;> rfl

/-- A block at the head of an image is refused or stored, as R89 says. -/
theorem readBlocks_blockBytes (c : Config) (fuel : Nat) (m : Memory) {x : Nat × List Byte} (hstart : x.1 < 2 ^ 32)
    (hlength : x.2.length < 2 ^ 32) (rest : List Byte) :
    readBlocks c (fuel + 1) m (blockBytes x ++ rest) =
      if 4 * c.memWords < x.1 + x.2.length then .error (.fileFormat .ijvm .blockOutsideMemory)
      else readBlocks c fuel (storeBytes m x.1 x.2) rest := by
  have hbytes : blockBytes x ++ rest = beBytes 4 x.1 ++ (beBytes 4 x.2.length ++ (x.2 ++ rest)) := by
    simp [blockBytes]
  have hfour : (blockBytes x ++ rest).take 4 = beBytes 4 x.1 := by rw [hbytes, List.take_left' (length_beBytes 4 _)]
  have hdrop : (blockBytes x ++ rest).drop 4 = beBytes 4 x.2.length ++ (x.2 ++ rest) := by
    rw [hbytes, List.drop_left' (length_beBytes 4 _)]
  have hbody : (blockBytes x ++ rest).drop 8 = x.2 ++ rest := by
    rw [show 8 = 4 + 4 from rfl, ← List.drop_drop, hdrop, List.drop_left' (length_beBytes 4 _)]
  have hlong : ¬ (blockBytes x ++ rest).length < 8 := by simp [length_blockBytes]; omega
  cases hb : blockBytes x ++ rest with
  | nil => simp [hb] at hlong
  | cons b bs =>
    rw [hb] at hfour hdrop hbody hlong
    simp only [readBlocks]
    rw [if_neg hlong, hfour, hdrop, hbody, List.take_left' (length_beBytes 4 _), beNat_beBytes (by simpa using hlength),
      beNat_beBytes (by simpa using hstart), if_neg (by simp), List.take_left, List.drop_left]

/-- Blocks that fit are stored in image order, and reading goes on behind them (R90). -/
theorem readBlocks_flatMap {c : Config} {blocks : List (Nat × List Byte)} (h : ∀ x ∈ blocks, BlockFits c x) (fuel : Nat)
    (m : Memory) (rest : List Byte) :
    readBlocks c (blocks.length + fuel) m (blocks.flatMap blockBytes ++ rest) = readBlocks c fuel (storeBlocks m blocks) rest := by
  induction blocks generalizing m with
  | nil => simp [storeBlocks]
  | cons x blocks ih =>
    obtain ⟨hx, hblocks⟩ := List.forall_mem_cons.mp h
    rw [List.flatMap_cons, List.append_assoc, List.length_cons, Nat.add_right_comm,
      readBlocks_blockBytes _ _ _ hx.start hx.length, if_neg (Nat.not_lt.mpr hx.inMemory), ih hblocks]
    rfl

/-- An image has at least as many bytes as blocks, so the loader's fuel reaches the end of the blocks. -/
theorem length_le_flatMap_blockBytes (blocks : List (Nat × List Byte)) : blocks.length ≤ (blocks.flatMap blockBytes).length := by
  induction blocks with
  | nil => exact Nat.le_refl 0
  | cons x blocks ih =>
    simp only [List.flatMap_cons, List.length_append, List.length_cons, length_blockBytes]
    omega

/-- Loading blocks that fit, and then `tail`, stores the blocks over MEM_INIT and goes on at `tail` with fuel for each byte of it. -/
theorem loadMacro_macroImage {c : Config} {blocks : List (Nat × List Byte)} (h : ∀ x ∈ blocks, BlockFits c x) (tail : List Byte) :
    ∃ fuel, tail.length ≤ fuel ∧
      loadMacro c (macroImage blocks ++ tail) = readBlocks c fuel (storeBlocks c.memInit blocks) tail := by
  obtain ⟨extra, hfuel⟩ := Nat.exists_eq_add_of_le (length_le_flatMap_blockBytes blocks)
  refine ⟨tail.length + extra, Nat.le_add_right .., ?_⟩
  have himage : macroImage blocks ++ tail = beBytes 4 ijvmMagic ++ (blocks.flatMap blockBytes ++ tail) := by simp [macroImage]
  have hheader : readHeader .ijvm ijvmMagic (macroImage blocks ++ tail) = .ok (blocks.flatMap blockBytes ++ tail) := by
    rw [himage, readHeader, if_neg (by simp), List.take_left' (length_beBytes 4 _), if_pos (beNat_beBytes (by decide)),
      List.drop_left' (length_beBytes 4 _)]
  have hlength : (blocks.flatMap blockBytes ++ tail).length = blocks.length + (tail.length + extra) := by
    rw [List.length_append, hfuel]
    omega
  rw [loadMacro, hheader, ← readBlocks_flatMap h, ← hlength]

/-! ## The bytes of a block -/

/-- R88: storing a block's bytes puts byte `i` at `start + i` and leaves every other byte. -/
theorem readByte_storeBytes {m : Memory} (h : Memory.wf m = true) (start : Nat) (bs : List Byte) (a : Nat) :
    readByte (storeBytes m start bs) a = if h : start ≤ a ∧ a - start < bs.length then bs[a - start]'h.2 else readByte m a := by
  induction bs generalizing m start with
  | nil => simp [storeBytes]
  | cons b bs ih =>
    rw [storeBytes, ih (wf_writeByte h start b), readByte_writeByte h]
    obtain hlt | rfl | hgt := Nat.lt_trichotomy a start
    · rw [dif_neg (by omega), dif_neg (by omega), if_neg (by omega)]
    · rw [dif_neg (by omega), dif_pos (by simp), if_pos rfl]
      simp
    · obtain ⟨i, rfl⟩ := Nat.exists_eq_add_of_lt hgt
      have hi : start + i + 1 - start = i + 1 := by omega
      have hi' : start + i + 1 - (start + 1) = i := by omega
      simp only [hi, hi', List.length_cons, List.getElem_cons_succ, Nat.add_lt_add_iff_right]
      by_cases hlen : i < bs.length
      · rw [dif_pos ⟨by omega, hlen⟩, dif_pos ⟨by omega, hlen⟩]
      · rw [dif_neg (by tauto), dif_neg (by tauto), if_neg (by omega)]

/-- Settles O11: loading is `storeBlocks` over MEM_INIT, by induction over the blocks; a block that fits memory has a start and a length
of 32 bits. -/
theorem macroImageStoresItsBlocksInOrder : Obligations.MacroImageStoresItsBlocksInOrder := by
  refine ⟨fun c blocks _ hsize hblocks => ?_, fun m start bs a hm => readByte_storeBytes hm start bs a⟩
  have hfits : ∀ x ∈ blocks, BlockFits c x := fun x hx =>
    have hle := hblocks x hx
    ⟨by omega, by omega, hle⟩
  obtain ⟨fuel, -, hload⟩ := loadMacro_macroImage hfits []
  rw [List.append_nil, readBlocks_nil] at hload
  exact hload

/-- Settles O12: the loader stores the good blocks and then finds the bad one at the head of what is left. -/
theorem blockOutsideMemoryRefusesTheImage : Obligations.BlockOutsideMemoryRefusesTheImage := by
  intro c good start bs tail hgood hstart hlength hout
  have hfits : ∀ x ∈ good, BlockFits c x := fun x hx =>
    have ⟨h1, h2, h3⟩ := hgood x hx
    ⟨h1, h2, h3⟩
  have himage : macroImage (good ++ [(start, bs)]) ++ tail = macroImage good ++ (blockBytes (start, bs) ++ tail) := by
    simp [macroImage]
  obtain ⟨fuel, hfuel, hload⟩ := loadMacro_macroImage hfits (blockBytes (start, bs) ++ tail)
  have hpos : fuel ≠ 0 := by
    rw [List.length_append, length_blockBytes] at hfuel
    omega
  obtain ⟨fuel, rfl⟩ := Nat.exists_eq_succ_of_ne_zero hpos
  rw [himage, hload, readBlocks_blockBytes _ _ _ hstart hlength, if_pos hout]

end Sys2Proof.Machine

/-! # Words against bytes (20_memory.md R66, R80) -/

namespace Sys2Proof.Machine

/-- Bits 7 to 0 of a concatenation that ends in a byte are that byte. -/
theorem extract_append_byte {n : Nat} (x : BitVec n) (b : Byte) : (x ++ b).extractLsb' 0 8 = b :=
  (BitVec.extractLsb'_append_eq_of_add_le (Nat.le_refl 8)).trans BitVec.extractLsb'_eq_self

/-- A byte taken above the last byte of a concatenation is taken from what stands before it. -/
theorem extract_append_above {n : Nat} (x : BitVec n) (b : Byte) (i : Nat) :
    (x ++ b).extractLsb' (i + 8) 8 = x.extractLsb' i 8 :=
  BitVec.extractLsb'_append_eq_of_le (Nat.le_add_left 8 i)

/-- R66: lane `k` of a word of memory is the byte at its address. -/
theorem lane_readWord (m : Memory) (w : Nat) {k : Nat} (hk : k < 4) : lane (readWord m w) k = readByte m (4 * w + k) := by
  obtain rfl | rfl | rfl | rfl : k = 0 ∨ k = 1 ∨ k = 2 ∨ k = 3 := by omega
  · exact (extract_append_above _ _ 16).trans ((extract_append_above _ _ 8).trans
      ((extract_append_above _ _ 0).trans BitVec.extractLsb'_eq_self))
  · exact (extract_append_above _ _ 8).trans ((extract_append_above _ _ 0).trans (extract_append_byte _ _))
  · exact (extract_append_above _ _ 0).trans (extract_append_byte _ _)
  · exact extract_append_byte _ _

/-- R66: a byte of memory is a lane of the word that contains it. -/
theorem readByte_eq_lane (m : Memory) (b : Nat) : readByte m b = lane (readWord m (b / 4)) (b % 4) := by
  rw [lane_readWord m _ (Nat.mod_lt b (by decide)), Nat.div_add_mod]

/-- R66: the four lanes of a word, put together. -/
theorem append_lanes (v : Word) : lane v 0 ++ lane v 1 ++ lane v 2 ++ lane v 3 = v := by
  simp only [lane, BitVec.extractLsb'_append_extractLsb'_eq_extractLsb']
  simp

/-- R66, R68: reading a word after writing one. -/
theorem readWord_writeWord {m : Memory} (h : Memory.wf m = true) (w : Nat) (v : Word) (b : Nat) :
    readWord (writeWord m w v) b = if b = w then v else readWord m b := by
  have hdiv : ∀ k < 4, (4 * b + k) / 4 = b := fun k hk => by omega
  have hmod : ∀ k < 4, (4 * b + k) % 4 = k := fun k hk => by omega
  rw [readWord, ← Nat.add_zero (4 * b)]
  simp only [Nat.add_assoc, Nat.zero_add, readByte_writeWord h, hdiv, hmod, Nat.reduceLT]
  split
  · exact append_lanes v
  · rfl

/-- Settles O26: lanes of a word read (R66), and the lanes and the word read back after a word write. -/
theorem bytePortSeesWordsBigEndian : Obligations.BytePortSeesWordsBigEndian := by
  refine ⟨readByte_eq_lane, fun m w v hm => ?_⟩
  have hlane : ∀ k < 4, readByte (writeWord m w v) (4 * w + k) = lane v k := fun k hk => by
    rw [readByte_writeWord hm, if_pos (by omega), show (4 * w + k) % 4 = k by omega]
  exact ⟨hlane 0 (by decide), hlane 1 (by decide), hlane 2 (by decide), hlane 3 (by decide),
    (readWord_writeWord hm w v w).trans (if_pos rfl)⟩

/-- Settles O27: the two ranges of addresses are those of `validWordAddr` (R69), and inside memory the word write reads back. -/
theorem hostWordRoundTrip : Obligations.HostWordRoundTrip := by
  refine ⟨fun s a v hm ha => ⟨writeWord s.mem a.toNat v, ?_, ?_, fun b hb => ?_⟩, fun s a v ha => ?_⟩
  · simp [hostWriteWord, validWordAddr, ha]
  · simp [hostReadWord, validWordAddr, ha, readWord_writeWord hm]
  · rw [readWord_writeWord hm, if_neg hb]
  · simp [hostWriteWord, hostReadWord, validWordAddr, ha]

end Sys2Proof.Machine

/-! # What a step does to memory (20_memory.md R68, R81, R82) -/

namespace Sys2Proof.Machine

/-- Whether the memory operation `g` of a tick stores a word, in the state `u` after phase 2 (R76, R212). -/
def Stores (g : MemSig) (u : State) : Prop := g.write = true ∧ u.regs.mar ≠ u.cfg.ioAddr

theorem completed_mem_of_stores {mi : MicroInstr} {u : State} (h : Stores mi.mem u) :
    (completed mi u).mem = writeWord u.mem u.regs.mar.toNat u.regs.mdr :=
  if_pos (by simpa [Stores] using h)

theorem completed_mem_of_not_stores {mi : MicroInstr} {u : State} (h : ¬ Stores mi.mem u) : (completed mi u).mem = u.mem :=
  if_neg (by simpa [Stores] using h)

@[simp] theorem completed_fault (mi : MicroInstr) (u : State) : (completed mi u).fault = u.fault := rfl

/-- R212: a completed WRITE to memory stores MDR in the word at MAR. -/
theorem step_stores {s t : State} {mi : MicroInstr} (hslot : currentSlot s = some mi) (hstep : step s = .next t)
    (ht : t.fault = none) (hwrite : mi.mem.write = true) (hport : t.regs.mar ≠ s.cfg.ioAddr) :
    t.mem = writeWord s.mem t.regs.mar.toNat t.regs.mdr := by
  obtain ⟨-, rfl⟩ := step_completed hslot hstep ht
  rw [completed_mem_of_stores ⟨hwrite, by simpa using hport⟩, afterPhase2_mem, completed_regs]

/-- R68: any other step keeps memory. -/
theorem step_keeps_mem {s t : State} {mi : MicroInstr} (hslot : currentSlot s = some mi) (hstep : step s = .next t)
    (h : ¬ (t.fault = none ∧ mi.mem.write = true ∧ t.regs.mar ≠ s.cfg.ioAddr)) : t.mem = s.mem := by
  obtain ⟨hf, -⟩ := step_eq_next hstep
  rw [step_of_slot hf hslot] at hstep
  obtain ⟨f, rfl⟩ | ⟨f, rfl⟩ | ⟨-, rfl⟩ := tick_eq_next hf hstep
  · rfl
  · exact afterPhase2_mem mi s
  · have hquiet : ¬ Stores mi.mem (afterPhase2 mi s) := fun hstores => h (by simpa [Stores, hf] using hstores)
    rw [completed_mem_of_not_stores hquiet, afterPhase2_mem]

/-- Settles O40: a step keeps memory or writes the word at MAR, and a word write keeps every byte outside its word. -/
theorem stepLeavesOtherMemoryBytesAlone : Obligations.StepLeavesOtherMemoryBytesAlone := by
  intro s t mi _ hslot hstep hm
  by_cases hstores : t.fault = none ∧ mi.mem.write = true ∧ t.regs.mar ≠ s.cfg.ioAddr
  · obtain ⟨ht, hwrite, hport⟩ := hstores
    refine ⟨fun hquiet => ?_, fun a ha => ?_⟩
    · simp [hwrite, ht, hport] at hquiet
    · rw [step_stores hslot hstep ht hwrite hport, readByte_writeWord hm, if_neg (by omega)]
  · rw [step_keeps_mem hslot hstep hstores]
    exact ⟨fun _ _ => rfl, fun _ _ => rfl⟩

/-! ## FETCH with WRITE -/

/-- R215: the byte a FETCH takes is the one before the accesses of its tick or, in a race only, the one after them. -/
theorem completed_pendByte {mi : MicroInstr} {u : State} (hfetch : mi.mem.fetch = true) :
    (completed mi u).memu.pendByte = some (readByte u.mem u.regs.pc.toNat) ∨
    (u.regs.pc.toNat / 4 = u.regs.mar.toNat ∧
      (completed mi u).memu.pendByte = some (readByte (completed mi u).mem u.regs.pc.toNat)) := by
  rw [completed_memu]
  simp only [accessed, hfetch, if_true]
  split
  · next hrace =>
    simp only [Bool.true_and, Bool.and_eq_true, decide_eq_true_eq] at hrace
    exact .inr ⟨hrace.1.2, rfl⟩
  · exact .inl rfl

/-- Settles O38: the byte fetched is read before or after the word write; inside the word that is a lane of the old word or of MDR, and
outside it the two are one. -/
theorem racingFetchTakesOldOrNewByte : Obligations.RacingFetchTakesOldOrNewByte := by
  intro s t mi _ hslot hstep ht hm hfetch hwrite hport
  have hstored := step_stores hslot hstep ht hwrite hport
  have hbyte : t.memu.pendByte = some (readByte s.mem t.regs.pc.toNat) ∨
      (t.regs.pc.toNat / 4 = t.regs.mar.toNat ∧ t.memu.pendByte = some (readByte t.mem t.regs.pc.toNat)) := by
    obtain ⟨-, rfl⟩ := step_completed hslot hstep ht
    simpa only [completed_regs, afterPhase2_mem] using completed_pendByte (u := afterPhase2 mi s) hfetch
  refine ⟨?_, fun hin => ?_, fun hout => ?_⟩
  · rw [hstored, readWord_writeWord hm, if_pos rfl]
  · obtain hold | ⟨-, hnew⟩ := hbyte
    · rw [hold, readByte_eq_lane, hin]
      exact .inl rfl
    · rw [hnew, hstored, readByte_writeWord hm, if_pos hin]
      exact .inr rfl
  · refine ⟨hbyte.resolve_right fun h => hout h.1, ?_⟩
    rw [hstored, readByte_writeWord hm, if_neg hout]

/-! ## READ after WRITE -/

/-- R211: a completed READ of memory leaves the word at MAR pending. -/
theorem step_reads {s t : State} {mi : MicroInstr} (hslot : currentSlot s = some mi) (hstep : step s = .next t)
    (ht : t.fault = none) (hread : mi.mem.read = true) (hport : t.regs.mar ≠ s.cfg.ioAddr) :
    t.memu.pendWord = some (readWord s.mem t.regs.mar.toNat) := by
  obtain ⟨-, rfl⟩ := step_completed hslot hstep ht
  have hmar : (afterPhase2 mi s).regs.mar ≠ (afterPhase2 mi s).cfg.ioAddr := by simpa using hport
  simp only [completed_memu, completed_regs, accessed, hread, hmar, if_true, if_false, afterPhase2_mem]

/-- Settles O48: the second tick reads the word the first has stored. -/
theorem readAfterWriteSamplesTheWrittenWord : Obligations.ReadAfterWriteSamplesTheWrittenWord := by
  intro s t u m1 m2 _ hslot hstep ht hslot' hstep' hu hm hwrite hread hport hmar
  obtain ⟨hcfg, -⟩ := (stepKeepsFixturesAndStreamsMoveForward s t hstep).1
  rw [step_reads hslot' hstep' hu hread (by rw [hmar, hcfg]; exact hport), hmar,
    step_stores hslot hstep ht hwrite hport, readWord_writeWord hm, if_pos rfl]

end Sys2Proof.Machine

/-! # The word ALU in closed form (40_alu.md R148)

The closed form of a tick speaks of `aluClosedForm` and the machine of the chain of slices; they are one function. -/

namespace Sys2Proof.Machine

theorem getLsbD_gather (f : Nat → Bool) (n i : Nat) (hi : i < 32) : (gather f n).getLsbD i = (decide (i < n) && f i) := by
  induction n with
  | zero => simp [gather]
  | succ n ih =>
    have hbit : (if f n then 1#32 <<< n else 0#32).getLsbD i = (decide (i = n) && f i) := by
      by_cases hin : i = n
      · subst hin
        cases hf : f i <;> simp [hi]
      · have hother : (1#32 <<< n).getLsbD i = false := by
          simp
          omega
        cases f n <;> simp [hin, hother]
    rw [gather, BitVec.getLsbD_or, ih, hbit, ← Bool.and_or_distrib_right]
    simp only [Nat.lt_succ_iff_lt_or_eq, Bool.decide_or]

theorem getLsbD_aluWord (g : AluSig) (a b : Word) {i : Nat} (hi : i < 32) : (aluWord g a b).getLsbD i = aluBit g a b i := by
  rw [aluWord, getLsbD_gather _ _ _ hi, decide_eq_true hi, Bool.true_and]

/-- R142: the A path of the word is that of its slices. -/
theorem getLsbD_pathA (g : AluSig) (a : Word) {i : Nat} (hi : i < 32) : (pathA g a).getLsbD i = sliceA g (a.getLsbD i) := by
  have hones : (0xFFFFFFFF#32).getLsbD i = true := by
    rw [show 0xFFFFFFFF#32 = BitVec.allOnes 32 from rfl, BitVec.getLsbD_allOnes, decide_eq_true hi]
  cases he : g.ena <;> cases hv : g.inva <;> simp [pathA, sliceA, he, hv, hones]

/-- R143: the B path of the word is that of its slices. -/
theorem getLsbD_pathB (g : AluSig) (b : Word) (i : Nat) : (pathB g b).getLsbD i = sliceB g (b.getLsbD i) := by
  cases he : g.enb <;> simp [pathB, sliceB, he]

/-- R146: in SUM the carries of the chain are those of the addition. -/
theorem carryInto_eq_carry {g : AluSig} (h0 : g.f0 = true) (h1 : g.f1 = true) (a b : Word) {i : Nat} (hi : i < 32) :
    carryInto g a b i = BitVec.carry i (pathA g a) (pathB g b) g.inc := by
  induction i with
  | zero => simp [carryInto]
  | succ i ih =>
    have hi' : i < 32 := by omega
    rw [carryInto, BitVec.carry_succ, ih hi', getLsbD_pathA g a hi', getLsbD_pathB, h0, h1]
    generalize sliceA g (a.getLsbD i) = p, sliceB g (b.getLsbD i) = q, BitVec.carry i _ _ _ = c
    revert p q c
    decide

/-- R148: the chain of 32 slices computes the closed form. -/
theorem aluWord_eq_aluClosedForm (g : AluSig) (a b : Word) : aluWord g a b = aluClosedForm g a b := by
  apply BitVec.eq_of_getLsbD_eq
  intro i hi
  rw [getLsbD_aluWord g a b hi, aluBit, ← getLsbD_pathA g a hi, ← getLsbD_pathB]
  cases h0 : g.f0 <;> cases h1 : g.f1
  · simp [sliceResult, aluClosedForm, h0, h1]
  · simp [sliceResult, aluClosedForm, h0, h1]
  · simp [sliceResult, aluClosedForm, h0, h1, hi]
  · have hcarry : carryIn g = (BitVec.ofBool g.inc).setWidth 32 := by
      cases h : g.inc <;> simp [carryIn, h]
    simp only [sliceResult, aluClosedForm, h0, h1]
    rw [carryInto_eq_carry h0 h1 a b hi, hcarry, BitVec.getLsbD_add_add_bool hi, Bool.xor_assoc]

theorem afterPhase2_regs_eq_regsAfter (mi : MicroInstr) (s : State) : (afterPhase2 mi s).regs = regsAfter mi s := by
  rw [afterPhase2_regs, aluWord_eq_aluClosedForm]
  rfl

end Sys2Proof.Machine

/-! # When a tick completes and when it waits (20_memory.md R78) -/

namespace Sys2Proof.Machine

/-- R78: whether the accesses `g` of a tick wait for input, in the state `u` after phase 2. -/
structure Waits (g : MemSig) (u : State) : Prop where
  read : g.read = true
  port : u.regs.mar = u.cfg.ioAddr
  empty : nextInput u.input = none

/-- A tick whose accesses can be made completes (R231). -/
theorem phase3_completes {mi : MicroInstr} {u : State} (hf : u.fault = none) (hp : u.memu.pendWord = none)
    (hq : u.memu.pendByte = none) (hok : AccessOk mi.mem u) : phase3 mi u = .next (completed mi u) := by
  obtain ⟨hlegal, hbyte, hword, hinput⟩ := hok
  have haccessed : (accessed mi.mem u).fault = none := hf
  rw [phase3, memoryPhase_ok _ _ hf hlegal hbyte hword, runOps_accesses _ _ hf hlegal hbyte hword hinput hp hq,
    andThen_next haccessed, runOps_nextOps _ _ haccessed, andThen_next (by exact hf)]
  rfl

/-- R78: a tick with valid addresses that waits has no next state. -/
theorem phase3_waits {mi : MicroInstr} {u : State} (hf : u.fault = none) (hlegal : (mi.mem.read && mi.mem.write) = false)
    (hbyte : mi.mem.fetch = true → validByteAddr u.cfg u.regs.pc = true) (hwait : Waits mi.mem u) :
    phase3 mi u = .fault .awaitingInput := by
  obtain ⟨hread, hport, hempty⟩ := hwait
  have hword : validPortAddr u.cfg u.regs.mar = true := by simp [validPortAddr, hport]
  rw [phase3, memoryPhase_ok _ _ hf hlegal hbyte fun _ => hword,
    runOps_accesses_stuck hf (by simpa [hread] using hlegal) hbyte hread hport hempty]
  rfl

/-- R214, R277: an illegal pair, or an address found invalid, raises before any access. -/
theorem memoryPhase_cases (mi : MicroInstr) {u : State} (hf : u.fault = none) :
    (∃ f, memoryPhase mi u = .next (raise f (stageMem mi.mem u))) ∨
    ((mi.mem.read && mi.mem.write) = false ∧ (mi.mem.fetch = true → validByteAddr u.cfg u.regs.pc = true) ∧
      (mi.mem.read = true ∨ mi.mem.write = true → validPortAddr u.cfg u.regs.mar = true)) := by
  cases hl : mi.mem.read && mi.mem.write with
  | true =>
    refine .inl ⟨.illegalReadWrite u.mpc u.mir, ?_⟩
    simp only [memoryPhase, MemSig.illegalRows, hl]
    rfl
  | false =>
    obtain ⟨f, hv⟩ | ⟨-, hbyte, hword⟩ := validateStaged_cases (stageMem mi.mem u)
    · refine .inl ⟨f, ?_⟩
      simp only [memoryPhase, MemSig.illegalRows, hl, opIf, Bool.false_eq_true, if_false, runOps_nil]
      rw [andThen_next (by exact hf), hv, andThen_raised (raise_fault _ _)]
    · exact .inr ⟨rfl, hbyte, hword⟩

/-- Phase 3 answers a next state or waits. -/
theorem phase3_cases (mi : MicroInstr) {u : State} (hf : u.fault = none) (hp : u.memu.pendWord = none)
    (hq : u.memu.pendByte = none) :
    (∃ t, phase3 mi u = .next t) ∨ (Waits mi.mem u ∧ phase3 mi u = .fault .awaitingInput) := by
  obtain ⟨f, hraise⟩ | ⟨hlegal, hbyte, hword⟩ := memoryPhase_cases mi hf
  · refine .inl ⟨raise f (stageMem mi.mem u), ?_⟩
    rw [phase3, hraise]
    exact andThen_raised (raise_fault _ _) _
  · by_cases hwait : Waits mi.mem u
    · exact .inr ⟨hwait, phase3_waits hf hlegal hbyte hwait⟩
    · exact .inl ⟨_, phase3_completes hf hp hq
        ⟨hlegal, hbyte, hword, fun hread hport hempty => hwait ⟨hread, hport, hempty⟩⟩⟩

/-- A tick answers a next state, or it waits for input. -/
theorem tick_cases (mi : MicroInstr) {s : State} (hf : s.fault = none) :
    (∃ t, tick mi s = .next t) ∨ (Waits mi.mem (afterPhase2 mi s) ∧ tick mi s = .fault .awaitingInput) := by
  cases hg : mi.sh.sll8 && mi.sh.sra1 with
  | true => exact .inl ⟨_, tick_illegalShifter hf hg⟩
  | false =>
    rw [tick_legalShifter hf hg]
    exact phase3_cases mi (by simp [hf]) (by simp) (by simp)

/-- Everything a step can answer: a next state, the fault recorded before it (R240), or that its tick waits (R78). -/
theorem step_cases (s : State) :
    (∃ t, step s = .next t) ∨ (∃ f, s.fault = some f ∧ step s = .fault (.reported f)) ∨
    (∃ mi, s.fault = none ∧ currentSlot s = some mi ∧ Waits mi.mem (afterPhase2 mi s) ∧ step s = .fault .awaitingInput) := by
  cases hf : s.fault with
  | some f => exact .inr (.inl ⟨f, rfl, by simp [step, hf]⟩)
  | none =>
    cases hslot : currentSlot s with
    | none => exact .inl ⟨haltAtEmptySlot s, by simp [step, hf, hslot]⟩
    | some mi =>
      rw [step_of_slot hf hslot]
      obtain hnext | ⟨hwait, htick⟩ := tick_cases mi hf
      · exact .inl hnext
      · exact .inr (.inr ⟨mi, rfl, rfl, hwait, htick⟩)

/-- Settles O45: of the three answers of `step_cases` two are no next state, and neither is a refusal. -/
theorem stepStopsOnlyOnRecordedFaultOrEmptyInput : Obligations.StepStopsOnlyOnRecordedFaultOrEmptyInput := by
  refine ⟨fun s r h => ?_, fun s x h => ?_⟩
  · obtain ⟨t, hstep⟩ | ⟨f, -, hstep⟩ | ⟨mi, -, -, -, hstep⟩ := step_cases s
    all_goals
      rw [hstep] at h
      cases h
  · obtain ⟨t, hstep⟩ | ⟨f, hfault, hstep⟩ | ⟨mi, hf, hslot, hwait, hstep⟩ := step_cases s
    all_goals
      rw [hstep] at h
      cases h
    · exact .inl ⟨f, hfault, rfl⟩
    · obtain ⟨hread, hport, hempty⟩ := hwait
      rw [afterPhase2_regs_eq_regsAfter, afterPhase2_cfg] at hport
      rw [afterPhase2_input, nextInput_eq_none] at hempty
      exact .inr ⟨rfl, hf, hempty, mi, hslot, hread, hport⟩

/-! ## A tick that waits, and one that is fed -/

theorem tickStuck_iff (mi : MicroInstr) (s : State) : tickStuck mi s = true ↔ Waits mi.mem (afterPhase2 mi s) := by
  rw [tickStuck, Bool.and_eq_true, Bool.and_eq_true, decide_eq_true_eq, Option.isNone_iff_eq_none,
    ← afterPhase2_regs_eq_regsAfter]
  exact ⟨fun ⟨⟨hread, hport⟩, hempty⟩ => ⟨hread, by simpa using hport, by simpa using hempty⟩,
    fun ⟨hread, hport, hempty⟩ => ⟨⟨hread, by simpa using hport⟩, by simpa using hempty⟩⟩

/-- A tick that neither raises nor is stuck makes its accesses (R277, R78). -/
theorem accessOk_of_tickFault {mi : MicroInstr} {s : State} (h : tickFault mi s = none) (hstuck : tickStuck mi s = false) :
    AccessOk mi.mem (afterPhase2 mi s) := by
  obtain ⟨-, hlegal, hbyte, hword⟩ := tickFault_none mi s h
  rw [← afterPhase2_regs_eq_regsAfter, ← afterPhase2_cfg mi s] at hbyte hword
  refine ⟨hlegal, hbyte, hword, fun hread hport hempty => ?_⟩
  rw [(tickStuck_iff mi s).mpr ⟨hread, hport, hempty⟩] at hstuck
  cases hstuck

/-- A step that neither raises nor is stuck is the completed tick. -/
theorem step_completes {s : State} {mi : MicroInstr} (hf : s.fault = none) (hslot : currentSlot s = some mi)
    (h : tickFault mi s = none) (hstuck : tickStuck mi s = false) : step s = .next (completed mi (afterPhase2 mi s)) := by
  obtain ⟨hshift, -⟩ := tickFault_none mi s h
  rw [step_of_slot hf hslot, tick_legalShifter hf hshift]
  exact phase3_completes (by simp [hf]) (by simp) (by simp) (accessOk_of_tickFault h hstuck)

/-- R78: a step that is stuck answers that it waits. -/
theorem step_waits {s : State} {mi : MicroInstr} (hf : s.fault = none) (hslot : currentSlot s = some mi)
    (h : tickFault mi s = none) (hstuck : tickStuck mi s = true) : step s = .fault .awaitingInput := by
  obtain ⟨hshift, hlegal, hbyte, -⟩ := tickFault_none mi s h
  rw [← afterPhase2_regs_eq_regsAfter, ← afterPhase2_cfg mi s] at hbyte
  rw [step_of_slot hf hslot, tick_legalShifter hf hshift]
  exact phase3_waits (by simp [hf]) hlegal hbyte ((tickStuck_iff mi s).mp hstuck)

/-- R77: a completed READ of the port leaves the byte it took pending, zero-extended, and the rest of the input. -/
theorem completed_port_read {mi : MicroInstr} {u : State} {c : Byte} {rest : InputSeq} (hread : mi.mem.read = true)
    (hport : u.regs.mar = u.cfg.ioAddr) (hin : nextInput u.input = some (c, rest)) :
    (completed mi u).memu.pendWord = some (zext8 c) ∧ (completed mi u).input = rest := by
  have hinput : (completed mi u).input = (accessed mi.mem u).input := rfl
  rw [completed_memu, hinput]
  simp [accessed, hread, hport, hin]

/-- Settles O37: feeding changes neither the address nor the faults of the tick, and makes its READ find a byte. -/
theorem emptyInputStopsTheWholeTickUntilFed : Obligations.EmptyInputStopsTheWholeTickUntilFed := by
  intro s mi hf hslot hfault hstuck
  refine ⟨step_waits hf hslot hfault hstuck, fun c rest => ?_⟩
  obtain ⟨hread, hport, hempty⟩ := (tickStuck_iff mi s).mp hstuck
  rw [afterPhase2_input, nextInput_eq_none] at hempty
  have hfed : nextInput (hostFeedInput (c :: rest) s).input = some (c, ⟨rest, none⟩) := by
    simp [hostFeedInput, hempty]
  have hgoes : tickStuck mi (hostFeedInput (c :: rest) s) = false := by
    simp [tickStuck, hfed]
  have hport' : (afterPhase2 mi (hostFeedInput (c :: rest) s)).regs.mar =
      (afterPhase2 mi (hostFeedInput (c :: rest) s)).cfg.ioAddr := by
    rw [afterPhase2_regs_eq_regsAfter, afterPhase2_cfg] at hport ⊢
    exact hport
  obtain ⟨hword, hrest⟩ := completed_port_read hread hport' (by rw [afterPhase2_input]; exact hfed)
  refine ⟨_, step_completes hf hslot hfault hgoes, ?_, hword, hrest, ?_⟩
  · simp [hostFeedInput, hf]
  · simp [hostFeedInput]

end Sys2Proof.Machine

/-! # Control words and records (30_encoding.md R100 to R103)

A layout says where each bit of a record lies. `MicroInstr.placed` lists the bits of a record with their places; encoding writes those
bits and decoding reads them, so the two are inverse because a well-formed layout uses each of the 36 places once. -/

namespace Sys2Proof

/-- The bits of a field with their places, the least significant at `p`. -/
def fieldAt {n : Nat} (p : Nat) (x : BitVec n) : List (Nat × Bool) := (List.range n).map fun i => (p + i, x.getLsbD i)

/-- The bits of a record with the places a layout gives them, in the order of `Layout.positions`. -/
def MicroInstr.placed (L : Layout) (mi : MicroInstr) : List (Nat × Bool) :=
  fieldAt L.addr mi.addr ++
  [(L.jmpc, mi.jam.jmpc), (L.jmpn, mi.jam.jmpn), (L.jmpz, mi.jam.jmpz), (L.sll8, mi.sh.sll8), (L.sra1, mi.sh.sra1),
   (L.f0, mi.alu.f0), (L.f1, mi.alu.f1), (L.ena, mi.alu.ena), (L.enb, mi.alu.enb), (L.inva, mi.alu.inva), (L.inc, mi.alu.inc),
   (L.cH, mi.c.h), (L.cOpc, mi.c.opc), (L.cTos, mi.c.tos), (L.cCpp, mi.c.cpp), (L.cLv, mi.c.lv), (L.cSp, mi.c.sp),
   (L.cPc, mi.c.pc), (L.cMdr, mi.c.mdr), (L.cMar, mi.c.mar), (L.write, mi.mem.write), (L.read, mi.mem.read),
   (L.fetch, mi.mem.fetch)] ++
  fieldAt L.b mi.b

theorem map_fst_placed (L : Layout) (mi : MicroInstr) : (mi.placed L).map Prod.fst = L.positions := rfl

/-! ## What encoding writes -/

theorem mem_fieldAt {n : Nat} {p i : Nat} {x : BitVec n} :
    (i, true) ∈ fieldAt p x ↔ p ≤ i ∧ x.getLsbD (i - p) = true := by
  simp only [fieldAt, List.mem_map, List.mem_range, Prod.mk.injEq]
  constructor
  · rintro ⟨k, -, rfl, hbit⟩
    simpa using hbit
  · rintro ⟨hle, hbit⟩
    exact ⟨i - p, BitVec.lt_of_getLsbD hbit, by omega, hbit⟩

theorem getLsbD_bitAt (p : Nat) {i : Nat} (hi : i < 36) : (bitAt p).getLsbD i = decide (i = p) := by
  rw [bitAt, BitVec.getLsbD_shiftLeft, BitVec.getLsbD_one]
  obtain rfl | h := eq_or_ne i p
  · simp [hi]
  · simp [h]
    omega

theorem getLsbD_flagAt (p : Nat) (v : Bool) {i : Nat} (hi : i < 36) :
    (flagAt p v).getLsbD i = true ↔ (i, true) = (p, v) := by
  cases v with
  | false => simp [flagAt]
  | true => simp [flagAt, getLsbD_bitAt p hi, -BitVec.getLsbD_eq_getElem]

theorem getLsbD_setWidth_shiftLeft {n : Nat} (x : BitVec n) (p : Nat) {i : Nat} (hi : i < 36) :
    (x.setWidth 36 <<< p).getLsbD i = true ↔ p ≤ i ∧ x.getLsbD (i - p) = true := by
  rw [BitVec.getLsbD_shiftLeft, BitVec.getLsbD_setWidth]
  simp [hi, show i - p < 36 by omega]

/-- A bit of an encoded record is 1 exactly when the record has a 1 in that place. -/
theorem getLsbD_encodeWord (L : Layout) (mi : MicroInstr) {i : Nat} (hi : i < 36) :
    (encodeWord L mi).getLsbD i = true ↔ (i, true) ∈ mi.placed L := by
  simp only [encodeWord, MicroInstr.placed, BitVec.getLsbD_or, Bool.or_eq_true, getLsbD_flagAt _ _ hi,
    getLsbD_setWidth_shiftLeft _ _ hi, List.mem_append, mem_fieldAt, List.mem_cons, List.not_mem_nil, or_false, or_assoc]

/-! ## What decoding reads -/

/-- The bits of a decoded word are those of the word. -/
theorem placed_decodeWord (L : Layout) (w : CWord) : (decodeWord L w).placed L = L.positions.map fun p => (p, w.getLsbD p) := by
  simp [MicroInstr.placed, Layout.positions, decodeWord, fieldAt, List.range, List.range.loop]

/-- Equal bits in equal places make equal fields. -/
theorem fieldAt_inj {n : Nat} {p : Nat} {x y : BitVec n} (h : fieldAt p x = fieldAt p y) : x = y := by
  refine BitVec.eq_of_getLsbD_eq fun i hi => ?_
  simp only [fieldAt, List.map_inj_left, List.mem_range, Prod.mk.injEq, true_and] at h
  exact h i hi

/-- A record is determined by its bits (R100). -/
theorem placed_inj {L : Layout} {mi mi' : MicroInstr} (h : mi.placed L = mi'.placed L) : mi = mi' := by
  rcases mi with ⟨⟨⟩, ⟨⟩, ⟨⟩, b, ⟨⟩, ⟨⟩, addr⟩
  rcases mi' with ⟨⟨⟩, ⟨⟩, ⟨⟩, b', ⟨⟩, ⟨⟩, addr'⟩
  obtain ⟨hfront, hb⟩ := List.append_inj' h (by simp [fieldAt])
  obtain ⟨haddr, hflags⟩ := List.append_inj' hfront rfl
  have haddr := fieldAt_inj haddr
  have hb := fieldAt_inj hb
  simp_all

/-! ## The places of a well-formed layout -/

theorem Layout.wf_iff (L : Layout) : L.wf = true ↔ L.positions.Nodup ∧ ∀ p ∈ L.positions, p < 36 := by
  simp [Layout.wf]

/-- R103: a well-formed layout leaves no bit of the word unused, since it has 36 places in 36 bits. -/
theorem Layout.mem_positions {L : Layout} (h : L.wf = true) {i : Nat} (hi : i < 36) : i ∈ L.positions := by
  obtain ⟨hnodup, hlt⟩ := L.wf_iff.mp h
  have hsub : L.positions.toFinset ⊆ Finset.range 36 := fun p hp => by simpa using hlt p (by simpa using hp)
  have hcard : (Finset.range 36).card ≤ L.positions.toFinset.card := by
    rw [List.toFinset_card_of_nodup hnodup]
    simp [Layout.positions]
  have hall := Finset.eq_of_subset_of_card_le hsub hcard
  simpa [← hall] using Finset.mem_range.mpr hi

/-- Under a well-formed layout an encoded record has each bit of the record in its place. -/
theorem getLsbD_encodeWord_of_mem {L : Layout} (h : L.wf = true) {mi : MicroInstr} {x : Nat × Bool} (hx : x ∈ mi.placed L) :
    (encodeWord L mi).getLsbD x.1 = x.2 := by
  obtain ⟨hnodup, hlt⟩ := L.wf_iff.mp h
  rw [← map_fst_placed L mi] at hnodup hlt
  rw [Bool.eq_iff_iff, getLsbD_encodeWord L mi (hlt _ (List.mem_map_of_mem hx))]
  constructor
  · intro hone
    rw [← List.inj_on_of_nodup_map hnodup hone hx rfl]
  · intro hone
    rwa [← hone]

/-! ## The round trips -/

/-- Settles O2: the decoded record has the bits of the encoded one. -/
theorem decodingAnEncodedRecordGivesItBack : Obligations.DecodingAnEncodedRecordGivesItBack := by
  intro L mi h
  apply placed_inj (L := L)
  calc (decodeWord L (encodeWord L mi)).placed L
      = (mi.placed L).map fun x => (x.1, (encodeWord L mi).getLsbD x.1) := by
        rw [placed_decodeWord, ← map_fst_placed L mi, List.map_map]
        rfl
    _ = (mi.placed L).map id := List.map_congr_left fun x hx => by rw [getLsbD_encodeWord_of_mem h hx, id]
    _ = mi.placed L := List.map_id _

/-- Settles O3: every bit of the word is a bit of its record, and has its place there. -/
theorem encodingADecodedWordGivesItBack : Obligations.EncodingADecodedWordGivesItBack := by
  intro L w h
  refine BitVec.eq_of_getLsbD_eq fun i hi => ?_
  have hmem : (i, w.getLsbD i) ∈ (decodeWord L w).placed L := by
    rw [placed_decodeWord]
    exact List.mem_map_of_mem (L.mem_positions h hi)
  exact getLsbD_encodeWord_of_mem h hmem

end Sys2Proof

/-! # Records of an image and the rows of a word (30_encoding.md R105, R122) -/

namespace Sys2Proof.Machine

/-! ## Records -/

/-- A byte more at the end of a number (R120). -/
theorem toNat_append_byte {n : Nat} (x : BitVec n) (b : Byte) : (x ++ b).toNat = x.toNat * 256 + b.toNat := by
  rw [BitVec.toNat_append, ← Nat.shiftLeft_add_eq_or_of_lt b.isLt, Nat.shiftLeft_eq]

theorem beNat_five (b0 b1 b2 b3 b4 : Byte) : beNat [b0, b1, b2, b3, b4] = (b0 ++ b1 ++ b2 ++ b3 ++ b4 : BitVec 40).toNat := by
  simp only [beNat, List.foldl_cons, List.foldl_nil, toNat_append_byte, Nat.zero_mul, Nat.zero_add]

/-- R122: the word of a written record is the word, whatever the number of padding bits. -/
theorem wordOfRecord_recordOfWord {n : Nat} (hn : 5 ≤ n) (w : CWord) : wordOfRecord n (recordOfWord n w) = w := by
  have hfits : w.toNat <<< (8 * n - 36) < 256 ^ n := by
    calc w.toNat <<< (8 * n - 36) = w.toNat * 2 ^ (8 * n - 36) := Nat.shiftLeft_eq ..
      _ < 2 ^ 36 * 2 ^ (8 * n - 36) := Nat.mul_lt_mul_of_pos_right w.isLt (Nat.two_pow_pos _)
      _ = 256 ^ n := by rw [← Nat.pow_add, show 36 + (8 * n - 36) = 8 * n by omega, Nat.pow_mul]
  rw [wordOfRecord, recordOfWord, beNat_beBytes hfits, Nat.shiftLeft_shiftRight, BitVec.ofNat_toNat, BitVec.setWidth_eq]

theorem length_recordOfWord (n : Nat) (w : CWord) : (recordOfWord n w).length = n := length_beBytes n _

/-- Settles O6: the bytes of a record are a 40-bit number, whose bits 39 to 4 are the word and whose low four bits are padding. -/
theorem recordHoldsTheControlWordInItsFirstBits : Obligations.RecordHoldsTheControlWordInItsFirstBits := by
  refine ⟨fun b0 b1 b2 b3 b4 => ?_, fun w => ⟨length_recordOfWord 5 w, _, _, _, _, _, rfl, ?_⟩,
    fun n w hn => ⟨length_recordOfWord n w, wordOfRecord_recordOfWord hn w⟩⟩
  · rw [wordOfRecord, beNat_five]
    rfl
  · apply BitVec.eq_of_toNat_eq
    simp [Nat.shiftLeft_eq]

/-- R122: reading a written record answers the record and the bytes after it. -/
theorem decodeRecord_recordOfWord (L : Layout) {n : Nat} (hn : 5 ≤ n) (w : CWord) (rest : List Byte) :
    decodeRecord L n (recordOfWord n w ++ rest) = .ok (decodeWord L w, rest) := by
  have hlength := length_recordOfWord n w
  rw [decodeRecord, if_neg (by simp [hlength]), List.take_left' hlength, List.drop_left' hlength,
    wordOfRecord_recordOfWord hn]

/-! ## The row that names a word (R105, log 1) -/

theorem tableWord_toNat (w : CWord) : tableWord 40 w.toNat = w := by
  rw [tableWord, Nat.mod_eq_of_lt (Nat.lt_trans w.isLt (by decide)), BitVec.ofNat_toNat, BitVec.setWidth_eq]

theorem decodeTableWord_toNat (w : CWord) : decodeTableWord 40 w.toNat = some (decodeWord Layout.textbook w).leadingOp := by
  have hrecord := decodeRecord_recordOfWord Layout.textbook (Nat.le_refl 5) w []
  rw [List.append_nil] at hrecord
  simp only [decodeTableWord, decodeTableMicro, tableWord_toNat, hrecord, Option.map_some]

theorem decodeWord_encode (i : Instr) : decodeWord Layout.textbook (encode i) = i.control :=
  decodingAnEncodedRecordGivesItBack _ _ (by decide)

theorem encode_eq_zero (i : Instr) : encode i = 0#36 ↔ i.control = MicroInstr.blank := by
  constructor
  · intro h
    rw [← decodeWord_encode, h]
    decide
  · intro h
    rw [encode, h]
    decide

/-- A row that sets a signal is the first row its record sets. -/
theorem leadingOp_control (i : Instr) (h : i.control ≠ MicroInstr.blank) : i.control.leadingOp = i := by
  cases i with
  | nextAddr a =>
    have ha : a ≠ 0#9 := by
      rintro rfl
      exact h rfl
    simp [Instr.control, MicroInstr.leadingOp, MicroInstr.blank, MemSig.illegalRows, MemSig.accessRows, JamSig.rows, CSet.rows,
      AluSig.modRows, opIf, ha]
  | aluAnd | shPass | bMdr => exact absurd rfl h
  | _ => rfl

/-- Settles O5: the word of a row decodes to the row's record, which is blank exactly where the word is 0. -/
theorem rowIsNamedByItsOwnWord : Obligations.RowIsNamedByItsOwnWord := by
  refine ⟨fun i h => ?_, fun i h => ?_⟩ <;> rw [decodeTableWord_toNat, decodeWord_encode]
  · rw [leadingOp_control i (mt (encode_eq_zero i).mpr h)]
  · rw [(encode_eq_zero i).mp h]
    rfl

end Sys2Proof.Machine

/-! # The microcode image (30_encoding.md R110, R120 to R124)

The loader reads the records of an image one after the other; what it then answers depends on how many there are and on the first illegal
one. -/

namespace Sys2Proof.Machine

theorem recordBytes_of_wf {c : Config} (h : c.wf = true) : 5 ≤ c.recordBytes := by
  simp only [Config.wf, Bool.and_eq_true, decide_eq_true_eq] at h
  tauto

theorem layout_of_wf {c : Config} (h : c.wf = true) : c.layout.wf = true := by
  simp only [Config.wf, Bool.and_eq_true] at h
  tauto

/-! ## One record -/

/-- A whole record at the head goes into the slot, and reading goes on behind it (R121). -/
theorem readRecords_of_record {c : Config} {bs rest : List Byte} {mi : MicroInstr} (hne : bs ≠ [])
    (h : decodeRecord c.layout c.recordBytes bs = .ok (mi, rest)) (fuel i : Nat) :
    readRecords c (fuel + 1) i bs = (readRecords c fuel (i + 1) rest).map ((i, mi) :: ·) := by
  cases bs with
  | nil => exact absurd rfl hne
  | cons b bs =>
    simp only [readRecords, h]
    cases readRecords c fuel (i + 1) rest <;> rfl

/-- R123: a record that lacks bytes refuses the image. -/
theorem readRecords_of_short {c : Config} {bs : List Byte} (hne : bs ≠ []) (h : bs.length < c.recordBytes) (fuel i : Nat) :
    readRecords c (fuel + 1) i bs = .error (.fileFormat .microcode .truncatedRecord) := by
  cases bs with
  | nil => exact absurd rfl hne
  | cons b bs => simp only [readRecords, decodeRecord, if_pos h]

/-- R123: bytes left over after whole records refuse the image, by induction on the records read. -/
theorem readRecords_truncated {c : Config} (hc : 5 ≤ c.recordBytes) {fuel i : Nat} {bs : List Byte} (hfuel : bs.length ≤ fuel)
    (h : bs.length % c.recordBytes ≠ 0) : readRecords c fuel i bs = .error (.fileFormat .microcode .truncatedRecord) := by
  have hne : bs ≠ [] := by
    rintro rfl
    simp at h
  induction fuel generalizing i bs with
  | zero => exact absurd (List.length_eq_zero_iff.mp (Nat.le_zero.mp hfuel)) hne
  | succ fuel ih =>
    by_cases hshort : bs.length < c.recordBytes
    · exact readRecords_of_short hne hshort fuel i
    · have hlength : (bs.drop c.recordBytes).length = bs.length - c.recordBytes := List.length_drop
      have hrest : (bs.drop c.recordBytes).length % c.recordBytes ≠ 0 := by
        rwa [hlength, ← Nat.mod_eq_sub_mod (Nat.le_of_not_lt hshort)]
      have hmore : bs.drop c.recordBytes ≠ [] := by
        intro hnil
        simp [hnil] at hrest
      rw [readRecords_of_record hne (if_neg hshort), ih (by omega) hrest hmore]
      rfl

/-! ## The records of a written image -/

/-- The record of a microinstruction in an image (R122). -/
def microRecord (c : Config) (mi : MicroInstr) : List Byte := recordOfWord c.recordBytes (encodeWord c.layout mi)

theorem microImage_eq (c : Config) (code : List MicroInstr) :
    microImage c code = beBytes 4 c.mic1Magic.toNat ++ code.flatMap (microRecord c) := rfl

@[simp] theorem length_microRecord (c : Config) (mi : MicroInstr) : (microRecord c mi).length = c.recordBytes :=
  length_recordOfWord _ _

/-- R103, R122: a written record reads as its microinstruction. -/
theorem decodeRecord_microRecord {c : Config} (hc : c.wf = true) (mi : MicroInstr) (rest : List Byte) :
    decodeRecord c.layout c.recordBytes (microRecord c mi ++ rest) = .ok (mi, rest) := by
  rw [microRecord, decodeRecord_recordOfWord _ (recordBytes_of_wf hc),
    decodingAnEncodedRecordGivesItBack _ _ (layout_of_wf hc)]

/-- The control store with the microinstructions of a list in the slots `i`, `i + 1`, and so on (R121). -/
def slotsFrom (i : Nat) (code : List MicroInstr) : ControlStore := (code.zipIdx i).map Prod.swap

theorem slotsFrom_cons (i : Nat) (mi : MicroInstr) (code : List MicroInstr) :
    slotsFrom i (mi :: code) = (i, mi) :: slotsFrom (i + 1) code := rfl

@[simp] theorem length_slotsFrom (i : Nat) (code : List MicroInstr) : (slotsFrom i code).length = code.length := by
  simp [slotsFrom]

/-- R121: the records of a list are read into consecutive slots. -/
theorem readRecords_flatMap {c : Config} (hc : c.wf = true) {code : List MicroInstr} {fuel : Nat} (hfuel : code.length ≤ fuel)
    (i : Nat) : readRecords c fuel i (code.flatMap (microRecord c)) = .ok (slotsFrom i code) := by
  induction code generalizing fuel i with
  | nil => cases fuel <;> rfl
  | cons mi code ih =>
    obtain ⟨fuel, rfl⟩ := Nat.exists_eq_add_of_lt hfuel
    have hne : microRecord c mi ++ code.flatMap (microRecord c) ≠ [] := by
      have hpos := recordBytes_of_wf hc
      intro hnil
      have hlength := congrArg List.length hnil
      simp at hlength
      omega
    rw [List.flatMap_cons, readRecords_of_record hne (decodeRecord_microRecord hc mi _), ih (by omega), slotsFrom_cons]
    rfl

/-! ## What the loader answers -/

/-- R120: a good magic number leaves the bytes after it. -/
theorem readHeader_of_magic {image : ImageKind} {magic : Nat} {bs : List Byte} (hlength : 4 ≤ bs.length)
    (hmagic : beNat (bs.take 4) = magic) : readHeader image magic bs = .ok (bs.drop 4) := by
  rw [readHeader, if_neg (Nat.not_lt.mpr hlength), if_pos hmagic]

/-- The word of a control store that the loader refuses as illegal, if it refuses one (R110). -/
def refusedWord (c : Config) (cs : ControlStore) : Option (Nat × MicroInstr) :=
  if c.rejectIllegalAtLoad then firstIllegal cs else none

/-- The answer of the loader to records it has read (R124, R110). -/
theorem loadMicrocode_of_records {c : Config} {bs rest : List Byte} {cs : ControlStore}
    (hheader : readHeader .microcode c.mic1Magic.toNat bs = .ok rest) (hrecords : readRecords c rest.length 0 rest = .ok cs) :
    loadMicrocode c bs =
      if 512 < cs.length then .error (.fileFormat .microcode .tooManyRecords)
      else (refusedWord c cs).elim (.ok cs) fun x => .error (.illegalSignals x.1 x.2) := by
  simp only [loadMicrocode, hheader, hrecords, refusedWord, csSlots, gt_iff_lt]
  split
  · rfl
  · split
    · split
      · next slot mi hfirst => rw [hfirst]; rfl
      · next hfirst => rw [hfirst]; rfl
    · rfl

/-- The answer of the loader to a written image. -/
theorem loadMicrocode_microImage {c : Config} (hc : c.wf = true) (code : List MicroInstr) :
    loadMicrocode c (microImage c code) =
      if 512 < code.length then .error (.fileFormat .microcode .tooManyRecords)
      else (refusedWord c (slotsFrom 0 code)).elim (.ok (slotsFrom 0 code)) fun x => .error (.illegalSignals x.1 x.2) := by
  have hheader : readHeader .microcode c.mic1Magic.toNat (microImage c code) = .ok (code.flatMap (microRecord c)) := by
    have hmagic := length_beBytes 4 c.mic1Magic.toNat
    rw [microImage_eq, readHeader_of_magic (by simp), List.drop_left' hmagic]
    rw [List.take_left' hmagic, beNat_beBytes (by exact c.mic1Magic.isLt)]
  have hfuel : code.length ≤ (code.flatMap (microRecord c)).length := by
    have hpos := recordBytes_of_wf hc
    simp only [List.length_flatMap, length_microRecord, List.map_const', List.sum_replicate, smul_eq_mul]
    exact Nat.le_mul_of_pos_right _ (by omega)
  rw [loadMicrocode_of_records hheader (readRecords_flatMap hc hfuel 0), length_slotsFrom]

/-- R110: a word the loader refuses is an illegal one of the store. -/
theorem refusedWord_eq_some {c : Config} {cs : ControlStore} {x : Nat × MicroInstr} (h : refusedWord c cs = some x) :
    c.rejectIllegalAtLoad = true ∧ x ∈ cs ∧ x.2.legal = false := by
  rw [refusedWord] at h
  split at h
  · next hreject => exact ⟨hreject, List.mem_of_find?_eq_some h, by simpa using List.find?_some h⟩
  · cases h

/-- R110: under REJECT_ILLEGAL_AT_LOAD nothing is refused only where every word is legal. -/
theorem refusedWord_eq_none {c : Config} {cs : ControlStore} (hreject : c.rejectIllegalAtLoad = true)
    (h : refusedWord c cs = none) : ∀ x ∈ cs, x.2.legal = true := by
  rw [refusedWord, if_pos hreject] at h
  simpa [firstIllegal] using h

/-- Everything a loader that accepts an image says of the control store (R124, R110). -/
theorem loadMicrocode_eq_ok {c : Config} {bs : List Byte} {cs : ControlStore} (h : loadMicrocode c bs = .ok cs) :
    cs.length ≤ 512 ∧ refusedWord c cs = none := by
  cases hheader : readHeader .microcode c.mic1Magic.toNat bs with
  | error e => simp [loadMicrocode, hheader] at h
  | ok rest =>
    cases hrecords : readRecords c rest.length 0 rest with
    | error e => simp [loadMicrocode, hheader, hrecords] at h
    | ok cs' =>
      rw [loadMicrocode_of_records hheader hrecords] at h
      split at h
      · cases h
      next hcount =>
      cases hrefused : refusedWord c cs' with
      | some x =>
        rw [hrefused] at h
        cases h
      | none =>
        rw [hrefused] at h
        cases h
        exact ⟨Nat.le_of_not_lt hcount, hrefused⟩

/-! ## The control store of a written image -/

/-- R36: consecutive slots below 512 are a control store in canonical form. -/
theorem wf_slotsFrom {i : Nat} {code : List MicroInstr} (h : i + code.length ≤ csSlots) : (slotsFrom i code).wf = true := by
  have hslots : (slotsFrom i code).map Prod.fst = List.range' i code.length := by
    rw [slotsFrom, List.map_map]
    exact List.zipIdx_map_snd ..
  have hrising : (slotsFrom i code).Pairwise fun x y => x.1 < y.1 := by
    rw [← List.pairwise_map, hslots]
    exact List.pairwise_lt_range'
  have hbelow : ∀ x ∈ slotsFrom i code, x.1 < csSlots := by
    intro x hx
    have hslot : x.1 ∈ List.range' i code.length := hslots ▸ List.mem_map_of_mem hx
    rw [List.mem_range'_1] at hslot
    omega
  simpa [ControlStore.wf, hrising] using fun a mi hx => hbelow (a, mi) hx

/-- R118, R121: a slot holds the microinstruction of its number in the list. -/
theorem slotAt_slotsFrom (i : Nat) (code : List MicroInstr) (a : MAddr) :
    slotAt (slotsFrom i code) a = if a.toNat < i then none else code[a.toNat - i]? := by
  induction code generalizing i with
  | nil => simp [slotsFrom, slotAt]
  | cons mi code ih =>
    rw [slotsFrom_cons, slotAt, ih]
    obtain hlt | heq | hgt := Nat.lt_trichotomy a.toNat i
    · rw [if_neg (by omega), if_pos (by omega), if_pos hlt]
    · rw [if_pos heq, if_neg (by omega), heq, Nat.sub_self]
      rfl
    · obtain ⟨k, hk⟩ := Nat.exists_eq_add_of_lt hgt
      rw [if_neg (by omega), if_neg (by omega), if_neg (by omega), show a.toNat - i = a.toNat - (i + 1) + 1 by omega]
      rfl

theorem mem_of_slotAt {cs : ControlStore} {a : MAddr} {mi : MicroInstr} (h : slotAt cs a = some mi) : (a.toNat, mi) ∈ cs := by
  induction cs with
  | nil => cases h
  | cons x cs ih =>
    rw [slotAt] at h
    split at h
    · next ha =>
      cases h
      exact ha ▸ List.mem_cons_self
    · exact List.mem_cons_of_mem _ (ih h)

theorem mem_slotsFrom_zero {code : List MicroInstr} {x : Nat × MicroInstr} :
    x ∈ slotsFrom 0 code ↔ code[x.1]? = some x.2 := by
  rw [slotsFrom, List.mem_map]
  constructor
  · rintro ⟨y, hy, rfl⟩
    exact List.mem_zipIdx_iff_getElem?.mp hy
  · intro hx
    exact ⟨x.swap, List.mem_zipIdx_iff_getElem?.mpr hx, x.swap_swap⟩

/-- R110: a written image has no refused word if the option is off or every microinstruction is legal. -/
theorem refusedWord_slotsFrom {c : Config} {code : List MicroInstr}
    (h : c.rejectIllegalAtLoad = true → ∀ mi ∈ code, mi.legal = true) : refusedWord c (slotsFrom 0 code) = none := by
  cases hrefused : refusedWord c (slotsFrom 0 code) with
  | none => rfl
  | some x =>
    obtain ⟨hreject, hmem, hillegal⟩ := refusedWord_eq_some hrefused
    rw [h hreject x.2 (List.mem_of_getElem? (mem_slotsFrom_zero.mp hmem))] at hillegal
    cases hillegal

/-! ## The obligations about microcode images -/

/-- Settles O7: the loader reads the records into consecutive slots and refuses none of them. -/
theorem microcodeImageLoadsRecordsIntoConsecutiveSlots : Obligations.MicrocodeImageLoadsRecordsIntoConsecutiveSlots := by
  intro c code hc hcount hlegal
  refine ⟨slotsFrom 0 code, ?_, wf_slotsFrom (by rw [Nat.zero_add]; exact hcount), fun a => ?_⟩
  · rw [loadMicrocode_microImage hc, if_neg (Nat.not_lt.mpr hcount), refusedWord_slotsFrom hlegal]
    rfl
  · rw [slotAt_slotsFrom, if_neg (Nat.not_lt_zero _), Nat.sub_zero]

/-- Settles O9: all the records are read, and then their number is found too large. -/
theorem oversizedMicrocodeImageIsRefused : Obligations.OversizedMicrocodeImageIsRefused := by
  intro c code hc hcount
  rw [loadMicrocode_microImage hc, if_pos hcount]

/-- Settles O8: reading the records fails before anything else is looked at. -/
theorem truncatedMicrocodeRecordRefusesTheImage : Obligations.TruncatedMicrocodeRecordRefusesTheImage := by
  intro c bs hc hlength hmagic hleft
  have hrecords : readRecords c (bs.drop 4).length 0 (bs.drop 4) = .error (.fileFormat .microcode .truncatedRecord) :=
    readRecords_truncated (recordBytes_of_wf hc) (Nat.le_refl _) (by rwa [List.length_drop])
  have hload : loadMicrocode c bs = .error (.fileFormat .microcode .truncatedRecord) := by
    simp only [loadMicrocode, readHeader_of_magic hlength hmagic, hrecords]
  exact ⟨hload, fun ijvm => ⟨by simp only [construct, readable, hload], rfl⟩⟩

/-- Settles O10: a store that is accepted has no illegal word, and an image with an illegal word has a first one, which is named. -/
theorem rejectOptionKeepsIllegalWordsOutOfTheStore : Obligations.RejectOptionKeepsIllegalWordsOutOfTheStore := by
  refine ⟨fun c bs cs hreject hload a mi hslot => ?_, fun c code hc hcount hreject hillegal => ?_⟩
  · obtain ⟨-, hrefused⟩ := loadMicrocode_eq_ok hload
    exact (legal_iff mi).mp (refusedWord_eq_none hreject hrefused _ (mem_of_slotAt hslot))
  · rw [loadMicrocode_microImage hc, if_neg (Nat.not_lt.mpr hcount)]
    cases hrefused : refusedWord c (slotsFrom 0 code) with
    | some x =>
      obtain ⟨-, hmem, hx⟩ := refusedWord_eq_some hrefused
      exact ⟨x.1, x.2, rfl, mem_slotsFrom_zero.mp hmem, hx⟩
    | none =>
      obtain ⟨mi, hmem, hmi⟩ := hillegal
      obtain ⟨slot, hslot⟩ := List.getElem?_of_mem hmem
      have hlegal := refusedWord_eq_none hreject hrefused (slot, mi) (mem_slotsFrom_zero.mpr hslot)
      rw [hmi] at hlegal
      cases hlegal

end Sys2Proof.Machine

/-! # The rows of a word (30_encoding.md R105, R133)

Decoding carries the AND of two words to the AND of their records. So a word meets the mask and match of a row exactly when its record,
cut down to the signals the row tests, is the row's own record; and that is a statement about records, whatever the layout. -/

namespace Sys2Proof

/-- The AND of two records, signal by signal. -/
def MicroInstr.and (x y : MicroInstr) : MicroInstr where
  alu := ⟨x.alu.ena && y.alu.ena, x.alu.enb && y.alu.enb, x.alu.f0 && y.alu.f0, x.alu.f1 && y.alu.f1, x.alu.inva && y.alu.inva,
    x.alu.inc && y.alu.inc⟩
  sh := ⟨x.sh.sll8 && y.sh.sll8, x.sh.sra1 && y.sh.sra1⟩
  c := ⟨x.c.h && y.c.h, x.c.opc && y.c.opc, x.c.tos && y.c.tos, x.c.cpp && y.c.cpp, x.c.lv && y.c.lv, x.c.sp && y.c.sp,
    x.c.pc && y.c.pc, x.c.mdr && y.c.mdr, x.c.mar && y.c.mar⟩
  b := x.b &&& y.b
  mem := ⟨x.mem.fetch && y.mem.fetch, x.mem.read && y.mem.read, x.mem.write && y.mem.write⟩
  jam := ⟨x.jam.jmpc && y.jam.jmpc, x.jam.jmpn && y.jam.jmpn, x.jam.jmpz && y.jam.jmpz⟩
  addr := x.addr &&& y.addr

theorem decodeWord_and (L : Layout) (w v : CWord) : decodeWord L (w &&& v) = (decodeWord L w).and (decodeWord L v) := by
  simp only [decodeWord, MicroInstr.and, BitVec.getLsbD_and, BitVec.extractLsb'_and]

/-- The record whose word is the mask of a row: its own signals, or all those of its group (R133). -/
def Instr.maskRecord : Instr → MicroInstr
  | .aluAnd | .aluOr | .aluNotb | .aluSum => Instr.aluSum.control
  | .shPass | .sll8 | .sra1 | .shIllegal => Instr.shIllegal.control
  | .bMdr | .bPc | .bMbr | .bMbru | .bSp | .bLv | .bCpp | .bTos | .bOpc => Instr.bNone15.control
  | .bNone9 | .bNone10 | .bNone11 | .bNone12 | .bNone13 | .bNone14 | .bNone15 => Instr.bNone15.control
  | .nextAddr _ => .blank
  | i => i.control

/-- The record whose word is the match of a row. -/
def Instr.matchRecord : Instr → MicroInstr
  | .nextAddr _ => .blank
  | i => i.control

theorem mask_eq_encodeWord (L : Layout) (i : Instr) : i.mask L = encodeWord L i.maskRecord := by
  cases i <;> simp [Instr.mask, Instr.maskRecord, Instr.control, MicroInstr.blank, encodeWord, flagAt, BitVec.or_comm]

theorem pattern_eq_encodeWord (L : Layout) (i : Instr) : i.pattern L = encodeWord L i.matchRecord := by
  cases i <;> simp [Instr.pattern, Instr.mask, Instr.matchRecord, Instr.control, MicroInstr.blank, encodeWord, flagAt, BitVec.or_comm]

/-- Mask and match of words are those of their records. -/
theorem and_eq_encodeWord_iff {L : Layout} (h : L.wf = true) (w : CWord) (m p : MicroInstr) :
    w &&& encodeWord L m = encodeWord L p ↔ (decodeWord L w).and m = p := by
  have hrecord : decodeWord L (w &&& encodeWord L m) = (decodeWord L w).and m := by
    rw [decodeWord_and, decodingAnEncodedRecordGivesItBack L m h]
  rw [← hrecord]
  constructor
  · intro he
    rw [he, decodingAnEncodedRecordGivesItBack L p h]
  · rintro rfl
    exact (encodingADecodedWordGivesItBack L _ h).symm

/-- Whether a record selects a row: the row's signals are as its own record has them, and the operand of NEXT is the field `Addr`. -/
def Instr.SelectedIn (i : Instr) (mi : MicroInstr) : Prop :=
  mi.and i.maskRecord = i.matchRecord ∧ ∀ a, i = .nextAddr a → a = mi.addr

theorem selectedBy_iff {L : Layout} (h : L.wf = true) (i : Instr) (w : CWord) :
    i.selectedBy L w = true ↔ i.SelectedIn (decodeWord L w) := by
  unfold Instr.selectedBy Instr.SelectedIn
  rw [Bool.and_eq_true, beq_iff_eq, mask_eq_encodeWord, pattern_eq_encodeWord, and_eq_encodeWord_iff h]
  refine and_congr_right fun _ => ?_
  cases i <;> simp [decodeWord]

/-! ## The rows a record selects, group by group -/

theorem mem_opIf {c : Bool} {i j : Instr} : i ∈ opIf c j ↔ c = true ∧ i = j := by
  cases c <;> simp [opIf]

theorem eq_fnRow {g : AluSig} {i : Instr} :
    i = g.fnRow ↔ (g.f0 = false ∧ g.f1 = false ∧ i = .aluAnd) ∨ (g.f0 = false ∧ g.f1 = true ∧ i = .aluOr) ∨
      (g.f0 = true ∧ g.f1 = false ∧ i = .aluNotb) ∨ (g.f0 = true ∧ g.f1 = true ∧ i = .aluSum) := by
  cases h0 : g.f0 <;> cases h1 : g.f1 <;> simp [AluSig.fnRow, h0, h1]

theorem eq_shRow {g : ShSig} {i : Instr} :
    i = g.row ↔ (g.sll8 = false ∧ g.sra1 = false ∧ i = .shPass) ∨ (g.sll8 = true ∧ g.sra1 = false ∧ i = .sll8) ∨
      (g.sll8 = false ∧ g.sra1 = true ∧ i = .sra1) ∨ (g.sll8 = true ∧ g.sra1 = true ∧ i = .shIllegal) := by
  cases h0 : g.sll8 <;> cases h1 : g.sra1 <;> simp [ShSig.row, h0, h1]

/-- The rows of group `b_sel`. -/
def bGroup : List Instr :=
  [.bMdr, .bPc, .bMbr, .bMbru, .bSp, .bLv, .bCpp, .bTos, .bOpc, .bNone9, .bNone10, .bNone11, .bNone12, .bNone13, .bNone14, .bNone15]

/-- R191: under the selector codes of the spec the row of a code is the one whose record has that code. -/
theorem mem_bRows {code : Selector} {i : Instr} : i ∈ bRows BSel.textbook code ↔ i ∈ bGroup ∧ code = i.control.b := by
  have hrows : ∀ code : Selector, ∀ i ∈ bRows BSel.textbook code, i ∈ bGroup ∧ code = i.control.b := by decide
  have hcodes : ∀ i ∈ bGroup, i ∈ bRows BSel.textbook i.control.b := by decide
  constructor
  · exact hrows code i
  · rintro ⟨hi, rfl⟩
    exact hcodes i hi

theorem and_ones (code : Selector) : code &&& 15#4 = code := BitVec.and_allOnes

/-- R105: the rows found are those the record selects. -/
theorem mem_ops_iff (mi : MicroInstr) (i : Instr) : i ∈ mi.ops BSel.textbook ↔ i.SelectedIn mi := by
  simp only [MicroInstr.ops, MicroInstr.computeOps, MicroInstr.writeOps, MicroInstr.nextOps, AluSig.modRows, CSet.rows,
    MemSig.illegalRows, MemSig.accessRows, JamSig.rows, List.mem_append, List.mem_cons, List.not_mem_nil, or_false, mem_opIf, eq_fnRow,
    eq_shRow, mem_bRows, Instr.SelectedIn]
  cases i <;> simp [bGroup, Instr.maskRecord, Instr.matchRecord, Instr.control, MicroInstr.blank, MicroInstr.and, and_ones]

/-- Settles O4: both sides say that the decoded record selects the row; the columns of the table are computed row by row. -/
theorem decoderFindsExactlyTheRowsOfMaskAndMatch : Obligations.DecoderFindsExactlyTheRowsOfMaskAndMatch := by
  refine ⟨fun L w i h => ?_, fun i => ?_⟩
  · rw [mem_ops_iff, selectedBy_iff h]
  · cases i <;> exact ⟨rfl, rfl⟩

end Sys2Proof

/-! # Fixed words and single rows (30_encoding.md R102, R126, R131; 43_buses_regfile.md R409) -/

namespace Sys2Proof.Machine

/-- Settles O1: the textbook layout is the table of R102. -/
theorem controlWordFieldsLieWhereTheLayoutTablePutsThem : Obligations.ControlWordFieldsLieWhereTheLayoutTablePutsThem :=
  fun _ => rfl

/-- Settles O14: four words are decoded by computation. -/
theorem sampleWordsDecodeToTheirFields : Obligations.SampleWordsDecodeToTheirFields := by
  unfold Obligations.SampleWordsDecodeToTheirFields
  decide

/-- Settles O23: the word of a row is computed, and each of the seven rows drives 0 (R409). -/
theorem unassignedSelectorRowsDriveZero : Obligations.UnassignedSelectorRowsDriveZero := by
  refine ⟨by decide, fun s => ?_⟩
  simp only [List.forall_mem_cons, List.not_mem_nil, false_imp_iff, implies_true, and_true]
  exact ⟨rfl, rfl, rfl, rfl, rfl, rfl, rfl⟩

/-- R156: what INVA does to the A path is the complement. -/
theorem xor_ones (x : Word) : x ^^^ 0xFFFFFFFF#32 = ~~~x := BitVec.xor_allOnes

/-- Settles O18: each setting is read off the closed form; a complement with a carry-in of 1 is a negation. -/
theorem namedAluSettingsGiveTheirExpression : Obligations.NamedAluSettingsGiveTheirExpression := by
  intro name x y
  rw [aluWord_eq_aluClosedForm]
  cases name with
  | bMinusA =>
    calc aluClosedForm (AluName.signals .bMinusA) x y = ~~~x + y + 1#32 := by
          simp [AluName.signals, aluClosedForm, pathA, pathB, carryIn, xor_ones]
      _ = y + (~~~x + 1#32) := by rw [BitVec.add_comm (~~~x), BitVec.add_assoc]
      _ = y - x := by rw [← BitVec.neg_eq_not_add, BitVec.sub_eq_add_neg]
  | bMinus1 =>
    calc aluClosedForm (AluName.signals .bMinus1) x y = 0xFFFFFFFF#32 + y := by
          simp [AluName.signals, aluClosedForm, pathA, pathB, carryIn]
      _ = y - 1#32 := by rw [BitVec.add_comm, BitVec.sub_eq_add_neg]; rfl
  | negA => simp [AluName.signals, aluClosedForm, pathA, pathB, carryIn, xor_ones, BitVec.neg_eq_not_add]
  | _ => simp [AluName.signals, aluClosedForm, pathA, pathB, carryIn, xor_ones]

end Sys2Proof.Machine

/-! # The step as its micro-operations, and the no-op that names itself (45_tick.md R231, R237) -/

namespace Sys2Proof.Machine

/-- Settles O34: a step from a filled slot is its tick, which is the three phases by definition. -/
theorem stepRunsTheSelectedMicroOperations : Obligations.StepRunsTheSelectedMicroOperations := by
  refine ⟨fun s mi hf hslot => step_of_slot hf hslot, runOps_cons, fun s nbits w mi hw => ?_⟩
  have hplaced : s.withFetchWord nbits w = { s with cs := placeSlot s.cs s.mpc mi, fault := none } := by
    simp only [State.withFetchWord, hw]
  rw [hplaced]
  exact step_of_slot rfl (slotAt_placeSlot s.cs s.mpc mi)

/-- The no-op with selector `sel` that goes to `addr` (R132, R237). -/
def noOp (sel : Selector) (addr : MAddr) : MicroInstr := { MicroInstr.blank with b := sel, addr := addr }

/-- The state after a no-op in slot `mpc` that names this slot (R237). -/
def selfLooped (sel : Selector) (s : State) : State :=
  let x := deliver s.memu.pendWord s.memu.pendByte s.regs
  { s with
    regs := x
    prevMpc := s.mpc
    mir := some (noOp sel s.mpc)
    ticks := s.ticks + 1
    halted := true
    alu := { a := s.regs.h, b := busB s.cfg.bsel sel s.regs, sig := MicroInstr.blank.alu, out := 0#32, n := false, z := true }
    shOut := 0#32
    mpcc := { n := false, z := true, out := s.mpc }
    memu := { fetch := false, read := false, write := false, byteAddr := x.pc, wordAddr := x.mar, wordValue := x.mdr,
              pendWord := none, pendByte := none }
    tickDone := some (noOp sel s.mpc, false) }

/-- R216: the fill delivers what is pending and changes nothing else. -/
theorem fill_eq (s : State) : fill s = { s with
    regs := deliver s.memu.pendWord s.memu.pendByte s.regs
    memu := { s.memu with pendWord := none, pendByte := none } } := by
  rw [← fill_regs, ← fill_memu]
  rcases s with ⟨_, _, _, _, _, _, _, _, _, _, _, _, _, ⟨_, _, _, _, _, _, pw, pb⟩, _⟩
  cases pw <;> cases pb <;> rfl

theorem aluWord_noOp (sel : Selector) (addr : MAddr) (a b : Word) : aluWord (noOp sel addr).alu a b = 0#32 := by
  simp [aluWord_eq_aluClosedForm, aluClosedForm, noOp, MicroInstr.blank, pathA, pathB]

/-- R233: the first two phases of a no-op deliver what is pending and run the ALU on nothing. -/
theorem afterPhase2_noOp (sel : Selector) (s : State) : afterPhase2 (noOp sel s.mpc) s =
    { selfLooped sel s with
      prevMpc := s.prevMpc, ticks := s.ticks, halted := s.halted, tickDone := s.tickDone
      mpcc := { n := false, z := true, out := s.mpcc.out }
      memu := { s.memu with pendWord := none, pendByte := none } } := by
  simp only [afterPhase2, aluWord_noOp, fill_eq, computed]
  rfl

/-- R237: the completed tick of a no-op that names its own slot. -/
theorem completed_noOp (sel : Selector) (s : State) :
    completed (noOp sel s.mpc) (afterPhase2 (noOp sel s.mpc) s) = selfLooped sel s := by
  have hterminal : (s.mpc == s.mpc || (slotAt s.cs s.mpc).isNone) = true := by simp
  rw [afterPhase2_noOp]
  calc completed (noOp sel s.mpc) _
      = { selfLooped sel s with halted := (s.mpc == s.mpc || (slotAt s.cs s.mpc).isNone) } := rfl
    _ = selfLooped sel s := by rw [hterminal]; rfl

/-- R237: a step at a no-op that names its own slot. -/
theorem step_noOp {s : State} {sel : Selector} (hf : s.fault = none) (hslot : currentSlot s = some (noOp sel s.mpc)) :
    step s = .next (selfLooped sel s) := by
  rw [step_completes hf hslot rfl rfl, completed_noOp]

/-- Settles O54: the no-op is in the slot of the state it leaves, and in that state nothing is pending. -/
theorem selfLoopingNoOpIsAFixedPoint : Obligations.SelfLoopingNoOpIsAFixedPoint := by
  intro s sel hf hslot
  refine ⟨selfLooped sel s, step_noOp hf hslot, rfl, rfl, rfl, rfl, rfl, fun hword hbyte => ?_, ?_⟩
  · simp only [selfLooped, hword, hbyte]
    rfl
  · exact step_noOp (s := selfLooped sel s) hf hslot

end Sys2Proof.Machine

/-! # The ALU's rows and flags (40_alu.md R146 to R159), and the tick as one formula (45_tick.md R231) -/

namespace Sys2Proof.Machine

/-! ## The rows of the ALU -/

/-- Settles O15: the statement writes out the closed form, and every bit of the chain is a bit of it. -/
theorem sliceChainEqualsClosedForm : Obligations.SliceChainEqualsClosedForm := fun g a b =>
  aluWord_eq_aluClosedForm g a b

/-- What a function row leaves (R150 to R153): the closed form as output, its flags, and F0 and F1. -/
theorem runAlu_eq (f0 f1 : Bool) (s : State) :
    runAlu f0 f1 s =
      let g := { s.alu.sig with f0 := f0, f1 := f1 }
      let out := aluClosedForm g s.alu.a s.alu.b
      { s with alu := { a := s.alu.a, b := s.alu.b, sig := g, out := out, n := negativeFlag out, z := zeroFlag out } } := by
  simp only [runAlu, aluWord_eq_aluClosedForm]

/-- Settles O16: each of the four rows runs the ALU with its own F0 and F1, and the closed form of that setting is the row's. -/
theorem aluFunctionRowsComputeResultAndFlags : Obligations.AluFunctionRowsComputeResultAndFlags :=
  ⟨by decide, fun s => ⟨congrArg Host.Outcome.next (runAlu_eq false false s), congrArg Host.Outcome.next (runAlu_eq false true s),
    congrArg Host.Outcome.next (runAlu_eq true false s), congrArg Host.Outcome.next (runAlu_eq true true s)⟩⟩

/-- Settles O17: each modifier row is the update of its one line, by definition (R154 to R157). -/
theorem aluModifierRowsRaiseTheirLine : Obligations.AluModifierRowsRaiseTheirLine :=
  fun _ => ⟨rfl, rfl, rfl, rfl⟩

/-! ## The flags as signed readings -/

/-- R147, R159: N says that the output is negative as a signed number. -/
theorem negativeFlag_eq_decide_toInt (out : Word) : negativeFlag out = decide (out.toInt < 0) := by
  rw [← BitVec.msb_eq_toInt, BitVec.msb_eq_getLsbD_last]
  rfl

/-- R147: Z says that the output is 0. -/
theorem zeroFlag_eq_decide_toNat (out : Word) : zeroFlag out = decide (out.toNat = 0) := by
  rw [zeroFlag, beq_eq_decide, decide_eq_decide]
  exact BitVec.toNat_inj.symm

/-- Settles O19: the setting A+B is the addition of words, whose number is the sum modulo 2^32; what the flags say holds of any
output. -/
theorem sumWrapsAndFlagsReadItSigned : Obligations.SumWrapsAndFlagsReadItSigned := by
  intro a b out
  have hsum : out = a + b := namedAluSettingsGiveTheirExpression .aPlusB a b
  refine ⟨?_, negativeFlag_eq_decide_toInt out, zeroFlag_eq_decide_toNat out, flags_exclusive out⟩
  rw [hsum, BitVec.toNat_add]

/-! ## The completed tick -/

/-- The state after the first two phases as one formula over the state before: registers, ALU, C bus and latched flags (R232, R233). -/
theorem afterPhase2_eq (mi : MicroInstr) (s : State) :
    afterPhase2 mi s =
      let out := aluOutOf mi s
      { s with
        regs := regsAfter mi s
        mir := some mi
        alu := { a := s.regs.h, b := busB s.cfg.bsel mi.b s.regs, sig := mi.alu, out := out, n := negativeFlag out,
                 z := zeroFlag out }
        shOut := cBusOf mi s
        mpcc := { n := negativeFlag out, z := zeroFlag out, out := s.mpcc.out }
        memu := { s.memu with pendWord := none, pendByte := none } } := by
  simp only [afterPhase2, computed, fill_eq, aluWord_eq_aluClosedForm]
  rfl

/-- R231: phase 3 of the state the first two phases leave gives the closed form; `accessed` and `nextFrom` read there the registers,
flags and memory that `tickState` computes from the state before. -/
theorem completed_eq_tickState (mi : MicroInstr) (s : State) : completed mi (afterPhase2 mi s) = tickState mi s := by
  rw [afterPhase2_eq]
  rfl

/-- Settles O35: a step that neither faults nor is stuck is the completed tick, and that is the closed form. -/
theorem completedTickIsTheClosedForm : Obligations.CompletedTickIsTheClosedForm := by
  intro s mi hf hslot hfault hstuck
  rw [step_completes hf hslot hfault hstuck, completed_eq_tickState]

end Sys2Proof.Machine

/-! # The shifter's rows (41_shifter.md R171 to R174) -/

namespace Sys2Proof.Machine

/-! ## The two readings of each shift -/

/-- R172: the shift left as the bits kept above a byte of zeros. -/
theorem shiftLeft8_eq_append (v : Word) : shiftLeft8 v = v.extractLsb' 0 24 ++ 0#8 :=
  BitVec.shiftLeft_eq_concat_of_lt (by decide)

/-- R172: the shift left as a product modulo 2^32. -/
theorem toNat_shiftLeft8 (v : Word) : (shiftLeft8 v).toNat = v.toNat * 256 % 2 ^ 32 := by
  rw [shiftLeft8, BitVec.toNat_shiftLeft, Nat.shiftLeft_eq]

/-- R173: every bit of the shift right below the sign is the next higher bit of the input, and the sign bit is kept. -/
theorem shiftRight1_eq_append (v : Word) : shiftRight1 v = v.extractLsb' 31 1 ++ v.extractLsb' 1 31 := by
  refine BitVec.eq_of_getLsbD_eq fun i hi => ?_
  rw [shiftRight1, BitVec.getLsbD_sshiftRight, BitVec.getLsbD_append]
  by_cases hlow : i < 31
  · have hin : 1 + i < 32 := by omega
    simp [hlow, hin, hi]
  · obtain rfl : i = 31 := by omega
    simp [BitVec.msb_eq_getLsbD_last]

/-- R173: the shift right as the floor of half the signed value. -/
theorem toInt_shiftRight1 (v : Word) : (shiftRight1 v).toInt = v.toInt / 2 := by
  rw [shiftRight1, BitVec.toInt_sshiftRight, Int.shiftRight_eq_div_pow]
  rfl

/-- Settles O20: the words of the rows are computed, each row drives its shift by definition, and each shift has the two readings. -/
theorem shifterRowsShiftTheAluOutput : Obligations.ShifterRowsShiftTheAluOutput :=
  ⟨by decide, fun s =>
    ⟨rfl, ⟨shiftLeft8 s.alu.out, rfl, shiftLeft8_eq_append _, toNat_shiftLeft8 _⟩,
      ⟨shiftRight1 s.alu.out, rfl, shiftRight1_eq_append _, toInt_shiftRight1 _⟩⟩⟩

/-! ## The illegal pair -/

/-- R232: the ALU output computed in phase 1 is the closed form over the state before the tick. -/
theorem computed_alu_out (mi : MicroInstr) (s : State) : (computed mi s).alu.out = aluOutOf mi s :=
  aluWord_eq_aluClosedForm _ _ _

/-- Settles O21: the tick ends in the raise of phase 1, from a state that differs from the one before in `mir` and the ALU only. -/
theorem illegalShifterPairFaultsBeforeAnyWrite : Obligations.IllegalShifterPairFaultsBeforeAnyWrite := by
  refine ⟨by decide, fun _ => rfl, fun s mi hf hslot hsll hsra => ?_⟩
  have hpair : (mi.sh.sll8 && mi.sh.sra1) = true := by rw [hsll, hsra]; rfl
  have hout := computed_alu_out mi s
  have hstep : step s = .next (raise (.illegalShifter s.mpc (some mi)) (computed mi s)) := by
    rw [step_of_slot hf hslot, tick_illegalShifter hf hpair]
  exact ⟨_, hstep, rfl, hout, congrArg negativeFlag hout, congrArg zeroFlag hout, rfl⟩

end Sys2Proof.Machine

/-! # The next address (42_mpc.md R180 to R187)

An address is its bits 7 to 0 and its bit 8. Each jump row works on one of the two and leaves the other; the address of a completed tick,
and the byte a JMPC dispatches on, follow from the closed form of the tick. -/

namespace Sys2Proof.Machine

/-! ## The two parts of an address -/

/-- R187: the byte the MPC calculator takes is bits 7 to 0. -/
theorem lowByte_eq_extractLsb' (v : Word) : lowByte v = v.extractLsb' 0 8 :=
  BitVec.setWidth_eq_extractLsb' (by decide)

/-- R182: the byte is ORed into bits 7 to 0. -/
theorem low_orByte (a : MAddr) (m : Byte) : (orByte a m).extractLsb' 0 8 = a.extractLsb' 0 8 ||| m := by
  rw [orByte, BitVec.extractLsb'_or, BitVec.extractLsb'_setWidth_of_le (by decide), BitVec.extractLsb'_eq_self]

/-- R182: bit 8 is not affected. -/
theorem bit8_orByte (a : MAddr) (m : Byte) : (orByte a m).getLsbD 8 = a.getLsbD 8 := by
  simp [orByte]

/-- R183, R184: bits 7 to 0 are not affected. -/
theorem low_setBit8 (taken : Bool) (a : MAddr) : (setBit8 taken a).extractLsb' 0 8 = a.extractLsb' 0 8 := by
  cases taken <;> simp [setBit8, BitVec.extractLsb'_or]

/-- R183, R184: bit 8 is set when the condition holds. -/
theorem bit8_setBit8 (taken : Bool) (a : MAddr) : (setBit8 taken a).getLsbD 8 = (a.getLsbD 8 || taken) := by
  cases taken <;> simp [setBit8]

/-- Settles O32: each row steers to its address by definition, and what `orByte` and `setBit8` do to the two parts of it is said above. -/
theorem nextAndJumpRowsFormTheAddress : Obligations.NextAndJumpRowsFormTheAddress := by
  intro s
  refine ⟨fun _ => rfl, ⟨orByte s.mpc (fetchedByte s), rfl, ?_, bit8_orByte _ _⟩,
    ⟨setBit8 s.mpcc.n s.mpc, rfl, low_setBit8 _ _, bit8_setBit8 _ _⟩,
    ⟨setBit8 s.mpcc.z s.mpc, rfl, low_setBit8 _ _, bit8_setBit8 _ _⟩⟩
  rw [low_orByte, fetchedByte, lowByte_eq_extractLsb']

/-! ## The address of a completed tick -/

/-- R180: bits 7 to 0 of the next address. -/
theorem low_nextAddress (addr : MAddr) (g : JamSig) (m : Byte) (n z : Bool) :
    (nextAddress addr g m n z).extractLsb' 0 8 = if g.jmpc then addr.extractLsb' 0 8 ||| m else addr.extractLsb' 0 8 := by
  rw [nextAddress, low_setBit8]
  split
  · exact low_orByte addr m
  · rfl

/-- R180: bit 8 of the next address. -/
theorem bit8_nextAddress (addr : MAddr) (g : JamSig) (m : Byte) (n z : Bool) :
    (nextAddress addr g m n z).getLsbD 8 = (addr.getLsbD 8 || (g.jmpn && n) || (g.jmpz && z)) := by
  rw [nextAddress, bit8_setBit8, jumpTaken, ← Bool.or_assoc]
  split
  · rw [bit8_orByte]
  · rfl

/-- A step from a filled slot that raises nothing leaves the closed form of its tick (R231). -/
theorem step_tickState {s t : State} {mi : MicroInstr} (hslot : currentSlot s = some mi) (hstep : step s = .next t)
    (ht : t.fault = none) : t = tickState mi s := by
  obtain ⟨-, hcompleted⟩ := step_completed hslot hstep ht
  rw [hcompleted, completed_eq_tickState]

/-- Settles O33: the closed form of the tick has the address of R180, of which the two parts are read off. -/
theorem completedTickGoesToTheCalculatedAddress : Obligations.CompletedTickGoesToTheCalculatedAddress := by
  intro s t mi _ hslot hstep ht
  obtain rfl := step_tickState hslot hstep ht
  refine ⟨?_, bit8_nextAddress .., rfl, rfl⟩
  rw [← lowByte_eq_extractLsb']
  exact low_nextAddress ..

/-! ## A fetched byte -/

/-- R210: a completed FETCH without a WRITE leaves the byte at PC pending. -/
theorem step_fetches {s t : State} {mi : MicroInstr} (hslot : currentSlot s = some mi) (hstep : step s = .next t)
    (ht : t.fault = none) (hfetch : mi.mem.fetch = true) (hwrite : mi.mem.write = false) :
    t.memu.pendByte = some (readByte s.mem t.regs.pc.toNat) := by
  obtain rfl := step_tickState hslot hstep ht
  have hrace : tickRaces mi s = false := by simp [tickRaces, hwrite]
  simp [tickState, pendByteAfter, hfetch, hrace]

/-- R216: a pending byte is in MBR and MBRU after the next tick. -/
theorem regsAfter_mbr_mbru {s : State} {c : Byte} (hpending : s.memu.pendByte = some c) (mi : MicroInstr) :
    (regsAfter mi s).mbr = sext8 c ∧ (regsAfter mi s).mbru = zext8 c := by
  simp [regsAfter, deliver, hpending]

/-- Settles O47: the byte the first tick leaves pending is in MBR when the second forms its address (R187), after its ALU has read the
registers of before. -/
theorem fetchedByteSteersTheNextTicksDispatch : Obligations.FetchedByteSteersTheNextTicksDispatch := by
  intro s t u m1 m2 _ hslot hstep ht hslot' hstep' hu hfetch hwrite c
  obtain ⟨hmbr, hmbru⟩ := regsAfter_mbr_mbru (step_fetches hslot hstep ht hfetch hwrite) m2
  obtain ⟨hlow, -⟩ := completedTickGoesToTheCalculatedAddress t u m2 ht hslot' hstep' hu
  obtain rfl := step_tickState hslot' hstep' hu
  refine ⟨hmbr, hmbru, rfl, fun hjmpc => ?_⟩
  have hbyte : (tickState m2 t).regs.mbr.extractLsb' 0 8 = c :=
    calc (regsAfter m2 t).mbr.extractLsb' 0 8
        = lowByte (sext8 c) := by rw [hmbr, lowByte_eq_extractLsb']
      _ = c := lowByte_sext8 c
  rw [hlow, if_pos hjmpc, hbyte]

end Sys2Proof.Machine

/-! # The buses and the register write (43_buses_regfile.md R196, R400 to R408, R420 to R428) -/

namespace Sys2Proof.Machine

/-! ## Reading a register after a write -/

/-- R196: a write to any register but MBR is that register's alone, MBRU included. -/
theorem get_set (x : RegFile) {r : Reg} (hr : r ≠ .mbr) (v : Word) (q : Reg) :
    (x.set r v).get q = if q = r then v else x.get q := by
  cases r
  case mbr => exact absurd rfl hr
  all_goals cases q <;> rfl

/-- R196: a write to MBR extends the low byte into MBR with its sign and into MBRU with zeros. -/
theorem get_set_mbr (x : RegFile) (v : Word) (q : Reg) :
    (x.set .mbr v).get q = if q = .mbr then sext8 (lowByte v) else if q = .mbru then zext8 (lowByte v) else x.get q := by
  cases q <;> rfl

/-- The sign extension of a byte sets bits 31 to 8 exactly when the byte's sign bit is set. -/
theorem sext8_eq_zext8_or (c : Byte) : sext8 c = if c.msb then zext8 c ||| 0xFFFFFF00#32 else zext8 c := by
  cases hsign : c.msb with
  | false => exact BitVec.signExtend_eq_setWidth_of_msb_false hsign
  | true =>
    refine BitVec.eq_of_getLsbD_eq fun i hi => ?_
    have hones : (0xFFFFFF00#32).getLsbD i = decide (8 ≤ i) := by
      revert i
      decide
    rw [if_pos rfl, sext8, zext8, BitVec.getLsbD_signExtend, BitVec.getLsbD_or, BitVec.getLsbD_setWidth, hones, hsign]
    obtain hlow | hhigh := Nat.lt_or_ge i 8
    · simp [hi, hlow]
    · simp [hi, hhigh, Nat.not_lt.mpr hhigh]

/-- R196: what MBR holds after a write, in terms of the word written. -/
theorem sext8_lowByte (v : Word) :
    sext8 (lowByte v) = if v.getLsbD 7 then (v &&& 0xFF#32) ||| 0xFFFFFF00#32 else v &&& 0xFF#32 := by
  have hsign : (lowByte v).msb = v.getLsbD 7 := by simp [lowByte, BitVec.msb_eq_getLsbD_last]
  rw [sext8_eq_zext8_or, hsign, and_low]

/-- Settles O25: a host's set is the register write, and what each register reads as after one is said above. -/
theorem registerWriteDerivesMbruOnlyFromMbr : Obligations.RegisterWriteDerivesMbruOnlyFromMbr := by
  refine ⟨fun _ _ _ => rfl, fun s v => ⟨?_, ?_, fun r hmbr hmbru => ?_⟩, fun s r v hr => ⟨?_, fun q hq => ?_⟩⟩
  · exact (get_set_mbr s.regs v .mbr).trans (sext8_lowByte v)
  · exact (get_set_mbr s.regs v .mbru).trans (and_low v).symm
  · exact (get_set_mbr s.regs v r).trans ((if_neg hmbr).trans (if_neg hmbru))
  · exact (get_set s.regs hr v r).trans (if_pos rfl)
  · exact (get_set s.regs hr v q).trans (if_neg hq)

/-! ## The rows of the two buses -/

/-- Settles O22: the words are computed, and each row drives the B input with its register by definition (R400 to R408). -/
theorem busRowsDriveTheSelectedSource : Obligations.BusRowsDriveTheSelectedSource :=
  ⟨by decide, fun _ => ⟨rfl, rfl, rfl, rfl, rfl, rfl, rfl, rfl, rfl⟩⟩

/-- Settles O24: the words are computed, and each row is the write of `sh.out` to its register, which is not MBR (R420 to R428). -/
theorem destinationRowsWriteTheShifterOutput : Obligations.DestinationRowsWriteTheShifterOutput :=
  ⟨by decide, fun _ => ⟨rfl, rfl, rfl, rfl, rfl, rfl, rfl, rfl, rfl⟩⟩

end Sys2Proof.Machine

/-! # The rows of the memory operation (44_memops.md R210 to R214)

What each access answers is said case by case about `applyFetch`, `applyRead` and `applyWrite`; a row is its access after staging. -/

namespace Sys2Proof.Machine

/-! ## The three accesses -/

theorem applyFetch_of_valid {s : State} (h : validByteAddr s.cfg s.memu.byteAddr = true) :
    applyFetch s = .next { s with
      memu := { s.memu with pendByte := some (readByte s.mem s.memu.byteAddr.toNat) }
      lastMacroAddr := some s.memu.byteAddr } :=
  if_pos h

theorem applyFetch_of_invalid {s : State} (h : validByteAddr s.cfg s.memu.byteAddr = false) :
    applyFetch s = .next (raise (.addressingFetch s.memu.byteAddr) s) :=
  if_neg (ne_true_of_eq_false h)

/-- R78: a READ of the port with no byte to take waits. -/
theorem applyRead_of_empty_port {s : State} (hport : s.memu.wordAddr = s.cfg.ioAddr) (hin : nextInput s.input = none) :
    applyRead s = .fault .awaitingInput := by
  simp only [applyRead, if_pos hport, hin]

/-- R77: a READ of the port takes the next byte, zero-extended. -/
theorem applyRead_of_port {s : State} {c : Byte} {rest : InputSeq} (hport : s.memu.wordAddr = s.cfg.ioAddr)
    (hin : nextInput s.input = some (c, rest)) :
    applyRead s = .next { s with memu := { s.memu with pendWord := some (zext8 c) }, input := rest } := by
  simp only [applyRead, if_pos hport, hin]

theorem applyRead_of_memory {s : State} (hport : s.memu.wordAddr ≠ s.cfg.ioAddr)
    (h : validWordAddr s.cfg s.memu.wordAddr = true) :
    applyRead s = .next { s with memu := { s.memu with pendWord := some (readWord s.mem s.memu.wordAddr.toNat) } } :=
  (if_neg hport).trans (if_pos h)

theorem applyRead_of_invalid {s : State} (hport : s.memu.wordAddr ≠ s.cfg.ioAddr)
    (h : validWordAddr s.cfg s.memu.wordAddr = false) :
    applyRead s = .next (raise (.addressingRead s.memu.wordAddr) s) :=
  (if_neg hport).trans (if_neg (ne_true_of_eq_false h))

/-- R76: a WRITE to the port appends the low byte of the staged word. -/
theorem applyWrite_of_port {s : State} (hport : s.memu.wordAddr = s.cfg.ioAddr) :
    applyWrite s = .next { s with output := s.output ++ [lowByte s.memu.wordValue] } :=
  if_pos hport

theorem applyWrite_of_memory {s : State} (hport : s.memu.wordAddr ≠ s.cfg.ioAddr)
    (h : validWordAddr s.cfg s.memu.wordAddr = true) :
    applyWrite s = .next { s with mem := writeWord s.mem s.memu.wordAddr.toNat s.memu.wordValue } :=
  (if_neg hport).trans (if_pos h)

theorem applyWrite_of_invalid {s : State} (hport : s.memu.wordAddr ≠ s.cfg.ioAddr)
    (h : validWordAddr s.cfg s.memu.wordAddr = false) :
    applyWrite s = .next (raise (.addressingWrite s.memu.wordAddr) s) :=
  (if_neg hport).trans (if_neg (ne_true_of_eq_false h))

/-! ## The three rows -/

/-- Settles O28: the staged address is PC, valid or not (R69), and a byte of memory is a lane of its word. -/
theorem fetchRowLatchesTheByteOrFaults : Obligations.FetchRowLatchesTheByteOrFaults := by
  refine ⟨by decide, fun s => ⟨fun hin => ?_, fun hout => ?_⟩⟩
  · rw [← readByte_eq_lane]
    exact applyFetch_of_valid (decide_eq_true hin)
  · exact applyFetch_of_invalid (decide_eq_false (Nat.not_lt.mpr hout))

/-- Settles O29: at the port the three forms of an input sequence are its three answers to `nextInput`; elsewhere MAR is inside memory
or not (R69). -/
theorem readRowLatchesTheWordOrFaultsOrWaits : Obligations.ReadRowLatchesTheWordOrFaultsOrWaits := by
  refine ⟨by decide, fun s => ⟨fun hport hin => ?_, fun c rest e hport hin => ?_, fun k hport hin => ?_, fun hport hin => ?_,
    fun hport hout => ?_⟩⟩
  · exact applyRead_of_empty_port hport ((nextInput_eq_none _).mpr hin)
  · exact applyRead_of_port hport ((congrArg nextInput hin).trans (nextInput_cons c rest e))
  · exact applyRead_of_port hport ((congrArg nextInput hin).trans (nextInput_endless k))
  · exact applyRead_of_memory hport (decide_eq_true hin)
  · exact applyRead_of_invalid hport (decide_eq_false (Nat.not_lt.mpr hout))

/-- Settles O30: the word written to memory is `writeWord`, whose laws give its form, the word read back and the bytes outside it. -/
theorem writeRowStoresTheWordAndNothingElse : Obligations.WriteRowStoresTheWordAndNothingElse := by
  refine ⟨by decide, fun s => ⟨fun hport => ?_, fun hport hin hm => ?_, fun hport hout => ?_⟩⟩
  · rw [← lowByte_eq_extractLsb']
    exact applyWrite_of_port hport
  · refine ⟨writeWord s.mem s.regs.mar.toNat s.regs.mdr, applyWrite_of_memory hport (decide_eq_true hin), wf_writeWord hm _ _, ?_,
      fun a ha => ?_⟩
    · rw [readWord_writeWord hm, if_pos rfl]
    · rw [readByte_writeWord hm, if_neg (by omega)]
  · exact applyWrite_of_invalid hport (decide_eq_false (Nat.not_lt.mpr hout))

/-! ## READ with WRITE -/

/-- R214: phase 3 of a tick with both signals raises after staging and does nothing else. -/
theorem phase3_illegalPair {mi : MicroInstr} (hpair : (mi.mem.read && mi.mem.write) = true) (u : State) :
    phase3 mi u = .next (raise (.illegalReadWrite u.mpc u.mir) (stageMem mi.mem u)) := by
  simp only [phase3, memoryPhase, MemSig.illegalRows, hpair]
  rfl

@[simp] theorem afterPhase2_lastMacroAddr (mi : MicroInstr) (s : State) :
    (afterPhase2 mi s).lastMacroAddr = s.lastMacroAddr := fill_lastMacroAddr _

/-- Settles O31: the tick ends in the raise of phase 3, from the state the first two phases leave with the memory operation staged. -/
theorem illegalMemoryPairFaultsAfterWriteBack : Obligations.IllegalMemoryPairFaultsAfterWriteBack := by
  refine ⟨fun _ => rfl, fun s mi hf hslot hlegal hread hwrite => ?_⟩
  have hshift : (mi.sh.sll8 && mi.sh.sra1) = false := by simpa only [ShSig.legal, Bool.not_eq_true'] using hlegal
  have hpair : (mi.mem.read && mi.mem.write) = true := by rw [hread, hwrite]; rfl
  have hstep : step s = .next (raise (.illegalReadWrite s.mpc (some mi)) (stageMem mi.mem (afterPhase2 mi s))) := by
    rw [step_of_slot hf hslot, tick_legalShifter hf hshift, phase3_illegalPair hpair, afterPhase2_mpc, afterPhase2_mir]
  exact ⟨_, hstep, rfl, afterPhase2_regs_eq_regsAfter mi s, afterPhase2_mem mi s, afterPhase2_output mi s, afterPhase2_input mi s,
    afterPhase2_pendWord mi s, afterPhase2_pendByte mi s, afterPhase2_lastMacroAddr mi s, afterPhase2_mpc mi s,
    afterPhase2_ticks mi s⟩

/-! ## The result of a READ, one tick later -/

/-- R77: a completed READ of the port takes a byte of input and leaves it pending, zero-extended. -/
theorem step_reads_port {s t : State} {mi : MicroInstr} (hslot : currentSlot s = some mi) (hstep : step s = .next t)
    (ht : t.fault = none) (hread : mi.mem.read = true) (hport : t.regs.mar = s.cfg.ioAddr) :
    ∃ c : Byte, nextInput s.input = some (c, t.input) ∧ t.memu.pendWord = some (zext8 c) := by
  obtain ⟨hok, rfl⟩ := step_completed hslot hstep ht
  have hport' : (afterPhase2 mi s).regs.mar = (afterPhase2 mi s).cfg.ioAddr := by simpa using hport
  obtain ⟨⟨c, rest⟩, hin⟩ := Option.ne_none_iff_exists'.mp (hok.input hread hport')
  obtain ⟨hword, hrest⟩ := completed_port_read hread hport' hin
  exact ⟨c, by rw [hrest, ← hin, afterPhase2_input], hword⟩

/-- R76: a completed WRITE to the port appends the low byte of MDR to the output. -/
theorem step_sends {s t : State} {mi : MicroInstr} (hslot : currentSlot s = some mi) (hstep : step s = .next t)
    (ht : t.fault = none) (hwrite : mi.mem.write = true) (hport : t.regs.mar = s.cfg.ioAddr) :
    t.output = s.output ++ [lowByte t.regs.mdr] := by
  obtain rfl := step_tickState hslot hstep ht
  exact if_pos (by rw [hwrite, Bool.true_and]; exact decide_eq_true hport)

/-- R216, R217: a pending word is in MDR after the next tick, whatever the C bus has put there. -/
theorem regsAfter_mdr {s : State} {v : Word} (hpending : s.memu.pendWord = some v) (mi : MicroInstr) :
    (regsAfter mi s).mdr = v := by
  simp [regsAfter, deliver, hpending]

/-- R211, R77: what a completed READ leaves pending. -/
theorem step_pends_word {s t : State} {mi : MicroInstr} (hslot : currentSlot s = some mi) (hstep : step s = .next t)
    (ht : t.fault = none) (hread : mi.mem.read = true) :
    ∃ v : Word, t.memu.pendWord = some v ∧ (t.regs.mar ≠ s.cfg.ioAddr → v = readWord s.mem t.regs.mar.toNat) ∧
      (t.regs.mar = s.cfg.ioAddr → ∃ c : Byte, nextInput s.input = some (c, t.input) ∧ v = c.setWidth 32) := by
  by_cases hport : t.regs.mar = s.cfg.ioAddr
  · obtain ⟨c, hin, hword⟩ := step_reads_port hslot hstep ht hread hport
    exact ⟨_, hword, fun h => absurd hport h, fun _ => ⟨c, hin, rfl⟩⟩
  · exact ⟨_, step_reads hslot hstep ht hread hport, fun _ => rfl, fun h => absurd h hport⟩

/-- Settles O46: the word the first tick leaves pending is in MDR after phase 2 of the second (R217), whose ALU has read the registers of
before and whose WRITE takes MDR as it is after phase 2. -/
theorem readResultArrivesOneTickLaterAndWins : Obligations.ReadResultArrivesOneTickLaterAndWins := by
  intro s t u m1 m2 _ hslot hstep ht hslot' hstep' hu hread
  obtain ⟨v, hpending, hmemory, hport⟩ := step_pends_word hslot hstep ht hread
  obtain ⟨hcfg, -⟩ := (stepKeepsFixturesAndStreamsMoveForward s t hstep).1
  have hclosed := step_tickState hslot' hstep' hu
  have hmdr : u.regs.mdr = v := by
    rw [hclosed]
    exact regsAfter_mdr hpending m2
  refine ⟨v, hmemory, hport, hmdr, by rw [hclosed]; rfl, fun hwrite => ⟨fun hio => ?_, fun hio hm => ?_⟩⟩
  · rw [step_sends hslot' hstep' hu hwrite (by rw [hcfg]; exact hio), hmdr, lowByte_eq_extractLsb']
  · rw [step_stores hslot' hstep' hu hwrite (by rw [hcfg]; exact hio), hmdr, readWord_writeWord hm, if_pos rfl]

end Sys2Proof.Machine

/-! # How a stepping call counts and ends (45_tick.md R236 to R246)

Each loop tests, ticks and goes on. What the tests and the tick can leave is said once, for any continuation, so that a claim about a
loop is an induction on the ticks still allowed. -/

namespace Sys2Proof.Machine

/-! ## The step at an empty slot, at a fault and at the end of a tick -/

/-- Settles O52: a step without a fault looks at the slot first (R239). -/
theorem emptySlotHaltsWithoutATick : Obligations.EmptySlotHaltsWithoutATick := by
  intro s hf hslot
  simp only [step, hf, hslot, haltAtEmptySlot]

/-- Settles O49: a step tests for a fault first, and a stepping call is refused before its loop begins. -/
theorem faultIsStickyUntilReset : Obligations.FaultIsStickyUntilReset := by
  intro s f hf
  have hmicro : ∀ n, microStep n s = ⟨s, 0, .faulted f⟩ := fun n => steppingCall_refused hf (microLoop canContinue n true)
  refine ⟨by simp only [step, hf], fun bound n => ⟨hmicro n, steppingCall_refused hf _, ?_⟩, rfl⟩
  simp only [run, hmicro bound]

/-- R237: the five groups of signals are those of the blank record, which leaves the selector and the address free. -/
theorem isNopOrHalt_iff (mi : MicroInstr) :
    isNopOrHalt mi = true ↔ mi = { MicroInstr.blank with b := mi.b, addr := mi.addr } := by
  rcases mi with ⟨alu, sh, c, b, mem, jam, addr⟩
  simp only [isNopOrHalt, Bool.and_eq_true, beq_iff_eq, MicroInstr.mk.injEq, true_and, and_true, and_assoc]

/-- Settles O53: the no-op test is on the record, and the rest is read off the closed form of the tick. -/
theorem haltIsDetectedAtTheEndOfATick : Obligations.HaltIsDetectedAtTheEndOfATick := by
  refine ⟨isNopOrHalt_iff, fun s t mi _ hslot hstep ht => ?_⟩
  obtain rfl := step_tickState hslot hstep ht
  exact ⟨by simp [tickState], rfl⟩

/-! ## What the tests before a tick leave -/

/-- Everything the tests before a tick can end a call with (R241). -/
theorem beforeTick_eq_some {mayGo : State → Bool} {first : Bool} {s : State} {r : CallReport}
    (h : beforeTick mayGo first s = some r) :
    (∃ f, s.fault = some f ∧ r = endCall (.faulted f) s) ∨
    (s.fault = none ∧ r = endCall .halted (haltAtEmptySlot s)) ∨
    (s.fault = none ∧ s.halted = false ∧ mayGo s = false ∧ r = endCall .vetoed s) := by
  obtain ⟨f, hf, he⟩ | ⟨hf, -, he⟩ | ⟨hf, hrun, -, hveto, he⟩ | ⟨-, -, -, -, he⟩ := beforeTick_cases mayGo first s
  all_goals
    rw [he] at h
    cases h
  · exact .inl ⟨f, hf, rfl⟩
  · exact .inr (.inl ⟨hf, rfl⟩)
  · exact .inr (.inr ⟨hf, hrun, hveto, rfl⟩)

/-- A tick that the tests let run has a microinstruction. -/
theorem slot_of_beforeTick {mayGo : State → Bool} {first : Bool} {s : State} (h : beforeTick mayGo first s = none) :
    ∃ mi, currentSlot s = some mi := by
  obtain ⟨f, -, he⟩ | ⟨-, -, he⟩ | ⟨-, -, -, -, he⟩ | ⟨-, -, hslot, -, -⟩ := beforeTick_cases mayGo first s
  case inr.inr.inr => exact hslot
  all_goals
    rw [he] at h
    cases h

/-- R297: without a fault or a halt the first tick is never refused. -/
theorem beforeTick_first (mayGo : State → Bool) {s : State} (hf : s.fault = none) (hrun : s.halted = false)
    (hslot : currentSlot s ≠ none) : beforeTick mayGo true s = none := by
  simp [beforeTick, hf, hrun, hslot]

/-- No test counts a tick. -/
theorem ticks_of_beforeTick {mayGo : State → Bool} {first : Bool} {s : State} {r : CallReport}
    (h : beforeTick mayGo first s = some r) : r.ticks = s.ticks := by
  obtain ⟨f, -, rfl⟩ | ⟨-, rfl⟩ | ⟨-, -, -, rfl⟩ := beforeTick_eq_some h <;> rfl

theorem endUsedUp_cases (e : CallEnd) (s : State) :
    (s.halted = true ∧ endUsedUp e s = endCall .halted s) ∨ (s.halted = false ∧ endUsedUp e s = endCall e s) := by
  cases h : s.halted with
  | true => exact .inl ⟨rfl, endUsedUp_halted h e⟩
  | false => exact .inr ⟨rfl, endUsedUp_running h e⟩

/-! ## A call takes back no tick -/

theorem ticks_le_tickThen {s : State} {mi : MicroInstr} {goOn : State → CallReport} (hslot : currentSlot s = some mi)
    (hgoOn : ∀ t, t.ticks ≤ (goOn t).ticks) : s.ticks ≤ (tickThen goOn s).ticks := by
  obtain ⟨t, hstep, ht, h⟩ | ⟨t, f, hstep, ht, h⟩ | ⟨f, -, h⟩ | ⟨-, h⟩ | ⟨r, -, h⟩ := tickThen_cases goOn s
  all_goals rw [h]
  · have hcount : t.ticks = s.ticks + 1 := (step_counts hslot hstep).trans (if_pos ht)
    have hle := hgoOn t
    omega
  · exact (show t.ticks = s.ticks by simp [step_counts hslot hstep, ht]).ge
  all_goals exact Nat.le_refl _

theorem ticks_le_microLoop (mayGo : State → Bool) (n : Nat) :
    ∀ (first : Bool) (s : State), s.ticks ≤ (microLoop mayGo n first s).ticks := by
  induction n with
  | zero => exact fun _ _ => Nat.le_refl _
  | succ n ih =>
    intro first s
    rw [microLoop]
    cases hb : beforeTick mayGo first s with
    | some r => exact (ticks_of_beforeTick hb).ge
    | none =>
      obtain ⟨mi, hslot⟩ := slot_of_beforeTick hb
      exact ticks_le_tickThen hslot (ih false)

/-- Settles O56: the first tick is not vetoed, it is counted, and what follows takes back no tick. -/
theorem firstTickRunsUnderAnyBreakpoint : Obligations.FirstTickRunsUnderAnyBreakpoint := by
  intro mayGo n s hn hf hrun hslot ⟨t, hstep, ht⟩
  obtain ⟨n, rfl⟩ := Nat.exists_eq_add_one_of_ne_zero hn.ne'
  obtain ⟨mi, hmi⟩ := Option.ne_none_iff_exists'.mp hslot
  have hcall : microStepWith mayGo (n + 1) s = microLoop mayGo n false t := by
    rw [microStepWith, steppingCall_begun hf, microLoop,
      beforeTick_first mayGo (s := { s with ticks := 0 }) hf hrun hslot]
    simp only [tickThen, hstep, ht]
  have hcount : t.ticks = 0 + 1 := (step_counts (s := { s with ticks := 0 }) hmi hstep).trans (if_pos ht)
  calc 1 = t.ticks := hcount.symm
    _ ≤ (microLoop mayGo n false t).ticks := ticks_le_microLoop mayGo n false t
    _ = (microStepWith mayGo (n + 1) s).ticks := by rw [hcall]

/-! ## What the end of a call says of the state left -/

/-- R246: what each way of ending says of the state a call under the callback `mayGo` leaves. -/
def EndsAsNamed (mayGo : State → Bool) (r : CallReport) : Prop :=
  match r.ending with
  | .halted => r.state.halted = true ∧ r.state.fault = none
  | .vetoed => mayGo r.state = false ∧ r.state.halted = false ∧ r.state.fault = none
  | .countReached => r.state.halted = false ∧ r.state.fault = none
  | .boundReached => r.state.halted = false ∧ r.state.fault = none
  | .faulted f => r.state.fault = some f
  | .stuck => step r.state = .fault .awaitingInput

theorem endsAsNamed_beforeTick {mayGo : State → Bool} {first : Bool} {s : State} {r : CallReport}
    (h : beforeTick mayGo first s = some r) : EndsAsNamed mayGo r := by
  obtain ⟨f, hf, rfl⟩ | ⟨hf, rfl⟩ | ⟨hf, hrun, hveto, rfl⟩ := beforeTick_eq_some h
  · exact hf
  · exact ⟨rfl, hf⟩
  · exact ⟨hveto, hrun, hf⟩

theorem endsAsNamed_endUsedUp {mayGo : State → Bool} {e : CallEnd} {s : State} (hf : s.fault = none)
    (he : e = .countReached ∨ e = .boundReached) : EndsAsNamed mayGo (endUsedUp e s) := by
  obtain ⟨hhalted, h⟩ | ⟨hrun, h⟩ := endUsedUp_cases e s
  · rw [h]
    exact ⟨hhalted, hf⟩
  · rw [h]
    obtain rfl | rfl := he <;> exact ⟨hrun, hf⟩

/-- A step answers no refusal, and reports only a fault that is recorded (R78, R240). -/
theorem endsAsNamed_tickThen {mayGo : State → Bool} {s : State} {goOn : State → CallReport}
    (hgoOn : ∀ t : State, t.fault = none → EndsAsNamed mayGo (goOn t)) : EndsAsNamed mayGo (tickThen goOn s) := by
  obtain ⟨hnoRefusal, hstops⟩ := stepStopsOnlyOnRecordedFaultOrEmptyInput
  obtain ⟨t, -, ht, h⟩ | ⟨t, f, -, ht, h⟩ | ⟨f, hstep, h⟩ | ⟨hstep, h⟩ | ⟨r, hstep, h⟩ := tickThen_cases goOn s
  all_goals rw [h]
  · exact hgoOn t ht
  · exact ht
  · obtain ⟨g, hg, heq⟩ | ⟨heq, -⟩ := hstops s _ hstep
    · cases heq
      exact hg
    · cases heq
  · exact hstep
  · exact absurd hstep (hnoRefusal s r)

theorem endsAsNamed_microLoop (mayGo : State → Bool) (n : Nat) :
    ∀ (first : Bool) (s : State), s.fault = none → EndsAsNamed mayGo (microLoop mayGo n first s) := by
  induction n with
  | zero => exact fun _ _ hf => endsAsNamed_endUsedUp hf (.inl rfl)
  | succ n ih =>
    intro first s _
    rw [microLoop]
    cases hb : beforeTick mayGo first s with
    | some r => exact endsAsNamed_beforeTick hb
    | none => exact endsAsNamed_tickThen (ih false)

theorem endsAsNamed_macroLoop (mayGo : State → Bool) (bound : Nat) :
    ∀ (left : Nat) (first : Bool) (entryPc : Word) (s : State), s.fault = none →
      EndsAsNamed mayGo (macroLoop mayGo bound left first entryPc s) := by
  induction bound with
  | zero =>
    intro left first entryPc s hf
    cases left with
    | zero => exact endsAsNamed_endUsedUp hf (.inl rfl)
    | succ left => exact endsAsNamed_endUsedUp hf (.inr rfl)
  | succ bound ih =>
    intro left first entryPc s hf
    cases left with
    | zero => exact endsAsNamed_endUsedUp hf (.inl rfl)
    | succ left =>
      rw [macroLoop]
      cases hb : beforeTick mayGo first s with
      | some r => exact endsAsNamed_beforeTick hb
      | none =>
        refine endsAsNamed_tickThen fun t ht => ?_
        split
        · exact ih left false t.regs.pc t ht
        · exact ih (left + 1) false entryPc t ht

theorem endsAsNamed_steppingCall {mayGo : State → Bool} {loop : State → CallReport} (s : State)
    (hloop : ∀ u : State, u.fault = none → EndsAsNamed mayGo (loop u)) : EndsAsNamed mayGo (steppingCall loop s) := by
  obtain hf | ⟨f, hf⟩ := Option.eq_none_or_eq_some s.fault
  · rw [steppingCall_begun hf]
    exact hloop _ hf
  · rw [steppingCall_refused hf]
    exact hf

theorem endsAsNamed_microStep (n : Nat) (s : State) : EndsAsNamed canContinue (microStep n s) :=
  endsAsNamed_steppingCall s (endsAsNamed_microLoop canContinue n true)

theorem endsAsNamed_macroStep (bound n : Nat) (s : State) : EndsAsNamed canContinue (macroStep bound n s) :=
  endsAsNamed_steppingCall s (endsAsNamed_macroLoop canContinue bound n true s.regs.pc)

/-- R243: `run` only renames a reached count, of which nothing else is said. -/
theorem endsAsNamed_run (bound : Nat) (s : State) : EndsAsNamed canContinue (run bound s) := by
  have h := endsAsNamed_microStep bound s
  rw [run]
  cases he : (microStep bound s).ending with
  | countReached => simpa only [EndsAsNamed, he] using h
  | _ => exact h

/-- Settles O57: each of the three calls ends as it is named. -/
theorem callEndingDescribesTheStateLeft : Obligations.CallEndingDescribesTheStateLeft := by
  intro bound n s r hr
  have h : EndsAsNamed canContinue r := by
    simp only [List.mem_cons, List.not_mem_nil, or_false] at hr
    obtain rfl | rfl | rfl := hr
    · exact endsAsNamed_microStep n s
    · exact endsAsNamed_run bound s
    · exact endsAsNamed_macroStep bound n s
  unfold EndsAsNamed at h
  cases he : r.ending <;> simpa [he] using h

/-! ## The boundaries `step(n)` crosses -/

/-- The report of `step(n)` with `bound` ticks and `left` boundaries still to go from `s`, after `k` ticks of which each was counted
(R242). -/
structure CrossesIn (k bound left : Nat) (entryPc : Word) (s : State) (r : CallReport) : Prop where
  ticks : r.ticks = s.ticks + k
  ticksBound : k ≤ bound
  crossed : boundariesIn k entryPc s ≤ left
  countReached : r.ending = .countReached → boundariesIn k entryPc s = left
  boundReached : r.ending = .boundReached → boundariesIn k entryPc s < left ∧ k = bound
  interrupted : r.ending = .vetoed ∨ r.ending = .stuck ∨ (∃ f : FaultRecord, r.ending = .faulted f) →
    boundariesIn k entryPc s < left
  state : r.state.fault = none → r.ending ≠ .halted → r.state = afterSteps k s

/-- A call that ends before its next tick has crossed nothing more; only where the end is a halt or a fault does it change the state. -/
theorem crossesIn_endCall {bound left : Nat} {entryPc : Word} {s u : State} {e : CallEnd} (hticks : u.ticks = s.ticks)
    (hcount : e = .countReached → left = 0) (hbound : e = .boundReached → 0 < left ∧ bound = 0)
    (hother : e = .vetoed ∨ e = .stuck ∨ (∃ f : FaultRecord, e = .faulted f) → 0 < left)
    (hstate : u.fault = none → e ≠ .halted → u = s) : CrossesIn 0 bound left entryPc s (endCall e u) where
  ticks := hticks
  ticksBound := Nat.zero_le _
  crossed := Nat.zero_le _
  countReached := fun h => (hcount h).symm
  boundReached := fun h => ⟨(hbound h).1, (hbound h).2.symm⟩
  interrupted := hother
  state := hstate

theorem crossesIn_beforeTick {mayGo : State → Bool} {first : Bool} {bound left : Nat} {entryPc : Word} {s : State} {r : CallReport}
    (h : beforeTick mayGo first s = some r) : CrossesIn 0 bound (left + 1) entryPc s r := by
  obtain ⟨f, -, rfl⟩ | ⟨-, rfl⟩ | ⟨-, -, -, rfl⟩ := beforeTick_eq_some h
  · exact crossesIn_endCall rfl nofun nofun (fun _ => left.succ_pos) fun _ _ => rfl
  · exact crossesIn_endCall rfl nofun nofun (fun _ => left.succ_pos) fun _ hrun => absurd rfl hrun
  · exact crossesIn_endCall rfl nofun nofun (fun _ => left.succ_pos) fun _ _ => rfl

/-- A completed tick crosses at most one boundary, from which on the reference PC is the new one. -/
theorem boundariesIn_step {s t : State} (hstep : step s = .next t) (k : Nat) (entryPc : Word) :
    boundariesIn (k + 1) entryPc s =
      if atBoundary entryPc t then boundariesIn k t.regs.pc t + 1 else boundariesIn k entryPc t := by
  simp only [boundariesIn, hstep]

/-- What follows a tick crosses its own boundaries, one fewer where the tick has crossed one. -/
theorem crossesIn_step {k bound left left' : Nat} {entryPc entryPc' : Word} {s t : State} {r : CallReport}
    (hstep : step s = .next t) (hticks : t.ticks = s.ticks + 1)
    (hcrossed : boundariesIn (k + 1) entryPc s + left' = boundariesIn k entryPc' t + left)
    (h : CrossesIn k bound left' entryPc' t r) : CrossesIn (k + 1) (bound + 1) left entryPc s r where
  ticks := by have := h.ticks; omega
  ticksBound := Nat.succ_le_succ h.ticksBound
  crossed := by have := h.crossed; omega
  countReached := fun he => by have := h.countReached he; omega
  boundReached := fun he => by have := h.boundReached he; omega
  interrupted := fun he => by have := h.interrupted he; omega
  state := fun hf hrun => by simpa only [afterSteps, hstep] using h.state hf hrun

/-- The tick of `step(n)`, and what follows it. -/
theorem crossesIn_tickThen {bound left : Nat} {entryPc : Word} {s : State} {mi : MicroInstr} {goOn : State → CallReport}
    (hslot : currentSlot s = some mi)
    (hgoOn : ∀ t, step s = .next t → t.ticks = s.ticks + 1 → ∃ k, CrossesIn k (bound + 1) (left + 1) entryPc s (goOn t)) :
    ∃ k, CrossesIn k (bound + 1) (left + 1) entryPc s (tickThen goOn s) := by
  obtain ⟨t, hstep, ht, h⟩ | ⟨t, f, hstep, ht, h⟩ | ⟨f, -, h⟩ | ⟨-, h⟩ | ⟨r, -, h⟩ := tickThen_cases goOn s
  all_goals rw [h]
  · exact hgoOn t hstep ((step_counts hslot hstep).trans (if_pos ht))
  · have hsame : t.ticks = s.ticks := by simp [step_counts hslot hstep, ht]
    exact ⟨0, crossesIn_endCall hsame nofun nofun (fun _ => left.succ_pos) (by simp [ht])⟩
  all_goals exact ⟨0, crossesIn_endCall rfl nofun nofun (fun _ => left.succ_pos) fun _ _ => rfl⟩

theorem crossesIn_countUsedUp (bound : Nat) (entryPc : Word) (s : State) :
    CrossesIn 0 bound 0 entryPc s (endUsedUp .countReached s) := by
  obtain ⟨-, h⟩ | ⟨-, h⟩ := endUsedUp_cases .countReached s
  all_goals
    rw [h]
    exact crossesIn_endCall rfl (fun _ => rfl) nofun (by simp) fun _ _ => rfl

theorem crossesIn_boundUsedUp (left : Nat) (entryPc : Word) (s : State) :
    CrossesIn 0 0 (left + 1) entryPc s (endUsedUp .boundReached s) := by
  obtain ⟨-, h⟩ | ⟨-, h⟩ := endUsedUp_cases .boundReached s
  all_goals
    rw [h]
    exact crossesIn_endCall rfl nofun (fun _ => ⟨left.succ_pos, rfl⟩) (fun _ => left.succ_pos) fun _ _ => rfl

/-- R242: by induction on the bound; the count of boundaries still to cross goes down with each one crossed. -/
theorem macroLoop_crossesIn (mayGo : State → Bool) (bound : Nat) :
    ∀ (left : Nat) (first : Bool) (entryPc : Word) (s : State),
      ∃ k, CrossesIn k bound left entryPc s (macroLoop mayGo bound left first entryPc s) := by
  induction bound with
  | zero =>
    intro left first entryPc s
    cases left with
    | zero => exact ⟨0, crossesIn_countUsedUp 0 entryPc s⟩
    | succ left => exact ⟨0, crossesIn_boundUsedUp left entryPc s⟩
  | succ bound ih =>
    intro left first entryPc s
    cases left with
    | zero => exact ⟨0, crossesIn_countUsedUp (bound + 1) entryPc s⟩
    | succ left =>
      rw [macroLoop]
      cases hb : beforeTick mayGo first s with
      | some r => exact ⟨0, crossesIn_beforeTick hb⟩
      | none =>
        obtain ⟨mi, hslot⟩ := slot_of_beforeTick hb
        refine crossesIn_tickThen hslot fun t hstep hticks => ?_
        have hcross := fun k => boundariesIn_step hstep k entryPc
        split
        · next hat =>
          obtain ⟨k, hk⟩ := ih left false t.regs.pc t
          exact ⟨k + 1, crossesIn_step hstep hticks (by rw [hcross, if_pos hat]; omega) hk⟩
        · next hat =>
          obtain ⟨k, hk⟩ := ih (left + 1) false entryPc t
          exact ⟨k + 1, crossesIn_step hstep hticks (by rw [hcross, if_neg hat]) hk⟩

/-- Settles O60: the loop begins with the tick counter at 0, so the ticks it reports are the steps it has made. -/
theorem macroStepCrossesItsBoundaries : Obligations.MacroStepCrossesItsBoundaries := by
  intro bound n s hf
  dsimp only
  rw [show macroStep bound n s = _ from steppingCall_begun hf _]
  obtain ⟨k, h⟩ := macroLoop_crossesIn canContinue bound n true s.regs.pc { s with ticks := 0 }
  rw [h.ticks.trans (Nat.zero_add k)]
  exact ⟨h.ticksBound, h.crossed, h.countReached, h.boundReached, h.interrupted, h.state⟩

end Sys2Proof.Machine

/-! # The tick that raises (60_exceptions.md R277, D28)

A tick whose `tickFault` is a fault raises exactly that fault, from the state its phases have left when the fault is detected. -/

namespace Sys2Proof.Machine

/-- The state a faulting tick raises in: the one of after phase 1 for the illegal shifter pair, else the one of after phase 2 with the
memory operation staged. -/
def raisedIn (mi : MicroInstr) (s : State) : State :=
  if mi.sh.sll8 && mi.sh.sra1 then computed mi s else stageMem mi.mem (afterPhase2 mi s)

theorem tickFault_of_illegalShifter {mi : MicroInstr} (hshift : (mi.sh.sll8 && mi.sh.sra1) = true) (s : State) :
    tickFault mi s = some (.illegalShifter s.mpc (some mi)) :=
  if_pos hshift

theorem tickFault_of_illegalPair {mi : MicroInstr} (hshift : (mi.sh.sll8 && mi.sh.sra1) = false)
    (hpair : (mi.mem.read && mi.mem.write) = true) (s : State) : tickFault mi s = some (.illegalReadWrite s.mpc (some mi)) := by
  simp only [tickFault, hshift, hpair, Bool.false_eq_true, if_false, if_true]

/-- R277 item 3: with legal signals the fault of the tick is the one the validation of its staged addresses raises. -/
theorem validateStaged_of_tickFault {mi : MicroInstr} {s : State} {f : FaultRecord}
    (hshift : (mi.sh.sll8 && mi.sh.sra1) = false) (hlegal : (mi.mem.read && mi.mem.write) = false) (h : tickFault mi s = some f) :
    validateStaged (stageMem mi.mem (afterPhase2 mi s)) = raise f (stageMem mi.mem (afterPhase2 mi s)) := by
  simp only [tickFault, hshift, hlegal, Bool.false_eq_true, if_false] at h
  simp only [validateStaged, stageMem, validByteAddr, validPortAddr, validWordAddr, afterPhase2_regs_eq_regsAfter, afterPhase2_cfg]
  split at h
  · next hfetch => cases h; rw [if_pos hfetch]
  next hfetch =>
  rw [if_neg hfetch]
  split at h
  · next hread => cases h; rw [if_pos hread]
  next hread =>
  rw [if_neg hread]
  split at h
  · next hwrite => cases h; rw [if_pos hwrite]
  · cases h

/-- D28: an address found invalid ends phase 3 before either access. -/
theorem phase3_invalidAddress {mi : MicroInstr} {u : State} {f : FaultRecord} (hf : u.fault = none)
    (hlegal : (mi.mem.read && mi.mem.write) = false) (hv : validateStaged (stageMem mi.mem u) = raise f (stageMem mi.mem u)) :
    phase3 mi u = .next (raise f (stageMem mi.mem u)) := by
  simp only [phase3, memoryPhase, MemSig.illegalRows, hlegal, opIf, Bool.false_eq_true, if_false, runOps_nil]
  rw [andThen_next (by exact hf), hv, andThen_raised (raise_fault _ _), andThen_raised (raise_fault _ _)]

/-- R277: a tick raises the first fault in the order of detection. -/
theorem tick_raises {mi : MicroInstr} {s : State} {f : FaultRecord} (hf : s.fault = none) (h : tickFault mi s = some f) :
    tick mi s = .next (raise f (raisedIn mi s)) := by
  cases hshift : mi.sh.sll8 && mi.sh.sra1 with
  | true =>
    rw [tickFault_of_illegalShifter hshift] at h
    cases h
    rw [tick_illegalShifter hf hshift, raisedIn, if_pos hshift]
  | false =>
    rw [tick_legalShifter hf hshift, raisedIn, hshift, if_neg Bool.false_ne_true]
    cases hpair : mi.mem.read && mi.mem.write with
    | true =>
      rw [tickFault_of_illegalPair hshift hpair] at h
      cases h
      rw [phase3_illegalPair hpair, afterPhase2_mpc, afterPhase2_mir]
    | false => exact phase3_invalidAddress (by simp [hf]) hpair (validateStaged_of_tickFault hshift hpair h)

@[simp] theorem afterPhase2_prevMpc (mi : MicroInstr) (s : State) : (afterPhase2 mi s).prevMpc = s.prevMpc := fill_prevMpc _
@[simp] theorem afterPhase2_tickDone (mi : MicroInstr) (s : State) : (afterPhase2 mi s).tickDone = s.tickDone := fill_tickDone _

/-- Settles O36: the raise keeps the state it happens in, and neither phase 1 nor phase 2 nor the staging touches more than the
registers, the units and the result latches. -/
theorem faultingTickReportsTheFirstFault : Obligations.FaultingTickReportsTheFirstFault := by
  intro s mi f hf hslot hfault
  refine ⟨raise f (raisedIn mi s), by rw [step_of_slot hf hslot, tick_raises hf hfault], rfl, ?_⟩
  cases hshift : mi.sh.sll8 && mi.sh.sra1 with
  | true =>
    rw [raisedIn, if_pos hshift]
    exact ⟨rfl, rfl, rfl, rfl, rfl, rfl, rfl, rfl, rfl, rfl, rfl, rfl⟩
  | false =>
    rw [raisedIn, hshift, if_neg Bool.false_ne_true]
    simp [afterPhase2_regs_eq_regsAfter]

end Sys2Proof.Machine

/-! # The debug controller (60_exceptions.md R290 to R302) -/

namespace Sys2Proof.Machine

/-! ## A step does not see it -/

/-- `s` with the controller's data replaced. -/
def withBreakpoints (l : List Breakpoint) (n : Nat) (s : State) : State := { s with breakpoints := l, nextBreakpointId := n }

theorem tickState_withBreakpoints (l : List Breakpoint) (n : Nat) (mi : MicroInstr) (s : State) :
    tickState mi (withBreakpoints l n s) = withBreakpoints l n (tickState mi s) := rfl

theorem raisedIn_withBreakpoints (l : List Breakpoint) (n : Nat) (mi : MicroInstr) (s : State) :
    raisedIn mi (withBreakpoints l n s) = withBreakpoints l n (raisedIn mi s) := by
  simp only [raisedIn, afterPhase2_eq]
  split <;> rfl

/-- Settles O42: what decides the answer of a step (the fault, the slot, whether its tick faults or waits) does not mention the
controller's data, and each next state it can answer keeps them. -/
theorem stepDoesNotReadTheBreakpointList : Obligations.StepDoesNotReadTheBreakpointList := by
  intro s l n
  change step (withBreakpoints l n s) = _
  cases hf : s.fault with
  | some f =>
    rw [(faultIsStickyUntilReset s f hf).1, (faultIsStickyUntilReset (withBreakpoints l n s) f hf).1]
  | none =>
    have hf' : (withBreakpoints l n s).fault = none := hf
    cases hslot : currentSlot s with
    | none =>
      rw [emptySlotHaltsWithoutATick s hf hslot, emptySlotHaltsWithoutATick _ hf' hslot]
      rfl
    | some mi =>
      have hslot' : currentSlot (withBreakpoints l n s) = some mi := hslot
      cases hfault : tickFault mi s with
      | some f =>
        rw [step_of_slot hf hslot, step_of_slot hf' hslot', tick_raises hf hfault, tick_raises hf' hfault, raisedIn_withBreakpoints]
        rfl
      | none =>
        cases hstuck : tickStuck mi s with
        | true => rw [step_waits hf hslot hfault hstuck, step_waits hf' hslot' hfault hstuck]
        | false =>
          rw [completedTickIsTheClosedForm s mi hf hslot hfault hstuck,
            completedTickIsTheClosedForm _ mi hf' hslot' hfault hstuck, tickState_withBreakpoints]
          rfl

/-! ## Requests on the list -/

/-- R276: a request with an invalid argument changes nothing. -/
theorem addBreakpoint_of_invalid {q : BreakpointRequest} (hq : q.kind = none) (s : State) : addBreakpoint q s = s := by
  simp only [addBreakpoint, hq]

/-- R298: a duplicate changes nothing. -/
theorem addBreakpoint_of_mem {q : BreakpointRequest} {b : Breakpoint} {s : State} (hb : b ∈ s.breakpoints)
    (hq : q.kind = some b.kind) : addBreakpoint q s = s := by
  simp only [addBreakpoint, hq]
  exact if_pos (List.any_eq_true.mpr ⟨b, hb, beq_self_eq_true b.kind⟩)

/-- R298: a new breakpoint is appended with the next id. -/
theorem addBreakpoint_of_new {q : BreakpointRequest} {k : BreakpointKind} {s : State} (hq : q.kind = some k)
    (hnew : ∀ b ∈ s.breakpoints, b.kind ≠ k) :
    addBreakpoint q s = withBreakpoints (s.breakpoints ++ [⟨s.nextBreakpointId, k⟩]) (s.nextBreakpointId + 1) s := by
  simp only [addBreakpoint, hq]
  exact if_neg (by simpa using hnew)

/-- R298, R276: adding again what has been added, or refused, changes nothing. -/
theorem addBreakpoint_idem (q : BreakpointRequest) (s : State) : addBreakpoint q (addBreakpoint q s) = addBreakpoint q s := by
  cases hq : q.kind with
  | none => exact addBreakpoint_of_invalid hq _
  | some k =>
    by_cases hmem : ∃ b ∈ s.breakpoints, b.kind = k
    · obtain ⟨b, hb, rfl⟩ := hmem
      rw [addBreakpoint_of_mem hb hq, addBreakpoint_of_mem hb hq]
    · have hadded := addBreakpoint_of_new hq (by simpa using hmem)
      have hlast : ⟨s.nextBreakpointId, k⟩ ∈ (addBreakpoint q s).breakpoints := by simp [hadded, withBreakpoints]
      exact addBreakpoint_of_mem hlast hq

/-- R299: `remove` keeps the entries of the other ids, in order, and nothing else changes. -/
theorem removeBreakpoint_eq (id : Nat) (s : State) :
    removeBreakpoint id s = withBreakpoints (s.breakpoints.filter (fun b => b.id ≠ id)) s.nextBreakpointId s := by
  have hkeeps : (fun b : Breakpoint => b.id != id) = fun b => decide (b.id ≠ id) := by
    funext b
    exact (decide_not (p := b.id = id)).symm
  rw [removeBreakpoint, hkeeps]
  rfl

/-- R299: a list in which no entry has the id is kept as it is. -/
theorem filter_id_ne {id : Nat} {l : List Breakpoint} (h : ∀ b ∈ l, b.id ≠ id) : l.filter (fun b => b.id ≠ id) = l :=
  List.filter_eq_self.mpr fun b hb => decide_eq_true (h b hb)

/-- R299: removing an id that one entry has takes out that entry. -/
theorem listBreakpoints_removeBreakpoint {s : State} {l m : List Breakpoint} {b : Breakpoint} (hs : s.breakpoints = l ++ b :: m)
    (hothers : ∀ x ∈ l ++ m, x.id ≠ b.id) : listBreakpoints (removeBreakpoint b.id s) = l ++ m := by
  calc listBreakpoints (removeBreakpoint b.id s)
      = (l ++ b :: m).filter (fun x => x.id ≠ b.id) := by rw [removeBreakpoint_eq, hs]; rfl
    _ = (l ++ m).filter (fun x => x.id ≠ b.id) := by simp
    _ = l ++ m := filter_id_ne hothers

/-- R299: an id no entry has changes nothing. -/
theorem removeBreakpoint_of_unknown {id : Nat} {s : State} (h : ∀ b ∈ s.breakpoints, b.id ≠ id) : removeBreakpoint id s = s := by
  rw [removeBreakpoint_eq, filter_id_ne h]
  rfl

/-- R276, R298: a number out of range names no breakpoint. -/
theorem kind_of_outOfRange :
    (∀ (r : Reg) (v : Nat), 2 ^ 32 ≤ v → (BreakpointRequest.register (some r) v).kind = none) ∧
    (∀ a : Nat, 512 ≤ a → (BreakpointRequest.microLine a).kind = none) ∧
    (∀ a : Nat, 2 ^ 32 ≤ a → (BreakpointRequest.macroLine a).kind = none) :=
  ⟨fun _ _ h => if_neg (Nat.not_lt.mpr h), fun _ h => if_neg (Nat.not_lt.mpr h), fun _ h => if_neg (Nat.not_lt.mpr h)⟩

/-- Settles O58: every clause is a case of what `add` and `remove` do. -/
theorem breakpointRequestsBehaveAsListed : Obligations.BreakpointRequestsBehaveAsListed := by
  obtain ⟨hregister, hmicro, hmacro⟩ := kind_of_outOfRange
  refine ⟨addBreakpoint_idem, fun q k s hq hnew => ?_,
    fun s => ⟨fun v => addBreakpoint_of_invalid rfl s, fun r v hv => addBreakpoint_of_invalid (hregister r v hv) s,
      fun a ha => addBreakpoint_of_invalid (hmicro a ha) s, fun a ha => addBreakpoint_of_invalid (hmacro a ha) s⟩,
    removeBreakpoint_eq, fun id s l b m hs hid hothers => ?_, fun id s => removeBreakpoint_of_unknown⟩
  · rw [addBreakpoint_of_new hq hnew]
    exact ⟨rfl, rfl⟩
  · subst hid
    exact listBreakpoints_removeBreakpoint hs hothers

/-! ## The decision -/

/-- R294 to R296: when a breakpoint matches, by its kind. -/
theorem breakpointMatches_iff (s : State) (k : BreakpointKind) :
    breakpointMatches s s.mpc s.lastMacroAddr k = true ↔
      (∃ (r : Reg) (v : Word), k = .register r v ∧ hostGetReg r s = v) ∨ k = .microLine s.mpc ∨
      ∃ a : Word, k = .macroLine a ∧ s.mpc = s.cfg.main1Addr ∧ s.lastMacroAddr = some a := by
  cases k with
  | register r v => simp [breakpointMatches, hostGetReg, eq_comm (a := v)]
  | microLine a => simp [breakpointMatches, eq_comm (a := a)]
  | macroLine a => simp [breakpointMatches]

/-- R291: the engine stops when some registered breakpoint matches. -/
theorem canContinue_eq_false_iff (s : State) :
    canContinue s = false ↔ ∃ b ∈ s.breakpoints, breakpointMatches s s.mpc s.lastMacroAddr b.kind = true := by
  simp [canContinue, canContinueAt]

/-- Settles O59: a matching breakpoint is of one of the three kinds. -/
theorem controllerStopsExactlyOnAMatch : Obligations.ControllerStopsExactlyOnAMatch := by
  intro s
  simp only [canContinue_eq_false_iff, breakpointMatches_iff, and_or_left, exists_or]

end Sys2Proof.Machine

/-! # Construction (70_reset_and_hazards.md R313)

Whatever images the loaders accept, the control store and the memory they give are in canonical form. -/

namespace Sys2Proof.Machine

/-- R121: whatever records are read, they lie in consecutive slots. -/
theorem readRecords_eq_ok {c : Config} {fuel i : Nat} {bs : List Byte} {cs : ControlStore}
    (h : readRecords c fuel i bs = .ok cs) : ∃ code, cs = slotsFrom i code := by
  induction fuel generalizing i bs cs with
  | zero =>
    cases h
    exact ⟨[], rfl⟩
  | succ fuel ih =>
    cases bs with
    | nil =>
      cases h
      exact ⟨[], rfl⟩
    | cons b bs =>
      cases hrecord : decodeRecord c.layout c.recordBytes (b :: bs) with
      | error e => simp [readRecords, hrecord] at h
      | ok x =>
        obtain ⟨mi, rest⟩ := x
        rw [readRecords_of_record (List.cons_ne_nil b bs) hrecord] at h
        cases hrest : readRecords c fuel (i + 1) rest with
        | error e => simp [hrest, Except.map] at h
        | ok cs' =>
          obtain ⟨code, rfl⟩ := ih hrest
          rw [hrest] at h
          cases h
          exact ⟨mi :: code, rfl⟩

/-- R121: an accepted microcode image fills the slots from 0 on with its records. -/
theorem loadMicrocode_eq_slotsFrom {c : Config} {bs : List Byte} {cs : ControlStore} (h : loadMicrocode c bs = .ok cs) :
    ∃ code, cs = slotsFrom 0 code := by
  cases hheader : readHeader .microcode c.mic1Magic.toNat bs with
  | error e => simp [loadMicrocode, hheader] at h
  | ok rest =>
    cases hrecords : readRecords c rest.length 0 rest with
    | error e => simp [loadMicrocode, hheader, hrecords] at h
    | ok cs' =>
      have hsame : cs' = cs := by
        rw [loadMicrocode_of_records hheader hrecords] at h
        split at h
        · cases h
        · cases hrefused : refusedWord c cs' with
          | some x => simp [hrefused] at h
          | none => simpa [hrefused] using h
      exact hsame ▸ readRecords_eq_ok hrecords

/-- R36: an accepted microcode image gives a control store in canonical form. -/
theorem wf_of_loadMicrocode {c : Config} {bs : List Byte} {cs : ControlStore} (h : loadMicrocode c bs = .ok cs) :
    cs.wf = true := by
  obtain ⟨code, rfl⟩ := loadMicrocode_eq_slotsFrom h
  obtain ⟨hcount, -⟩ := loadMicrocode_eq_ok h
  rw [length_slotsFrom] at hcount
  exact wf_slotsFrom (Nat.zero_add _ ▸ hcount)

/-- R45: MEM_INIT of well-formed parameters is canonical and inside the address space. -/
theorem memInit_of_wf {c : Config} (h : c.wf = true) : cellsOk (4 * c.memWords) c.memInit = true := by
  simp only [Config.wf, Bool.and_eq_true] at h
  tauto

/-- A byte write inside the address space keeps every cell inside it. -/
theorem writeByte_bound {limit ba : Nat} {m : Memory} {v : Byte} (h : ∀ x ∈ m, x.1 < limit) (hba : ba < limit) :
    ∀ x ∈ writeByte m ba v, x.1 < limit := fun x hx =>
  (mem_writeByte hx).elim (fun e => e ▸ hba) (h x)

/-- R88, R89: a block inside memory keeps memory canonical and inside the address space. -/
theorem cellsOk_storeBytes {limit start : Nat} {m : Memory} {bs : List Byte} (h : cellsOk limit m = true)
    (hin : start + bs.length ≤ limit) : cellsOk limit (storeBytes m start bs) = true := by
  induction bs generalizing m start with
  | nil => exact h
  | cons b bs ih =>
    rw [List.length_cons] at hin
    obtain ⟨hwf, hbound⟩ := (cellsOk_iff limit m).mp h
    exact ih ((cellsOk_iff limit _).mpr ⟨wf_writeByte hwf start b, writeByte_bound hbound (by omega)⟩) (by omega)

/-- R87 to R90: blocks that are all accepted keep memory canonical and inside the address space. -/
theorem cellsOk_readBlocks {c : Config} {fuel : Nat} {m m' : Memory} {bs : List Byte}
    (h : cellsOk (4 * c.memWords) m = true) (hread : readBlocks c fuel m bs = .ok m') :
    cellsOk (4 * c.memWords) m' = true := by
  induction fuel generalizing m bs with
  | zero =>
    cases hread
    exact h
  | succ fuel ih =>
    cases bs with
    | nil =>
      cases hread
      exact h
    | cons b bs =>
      simp only [readBlocks] at hread
      split at hread
      · cases hread
      split at hread
      · cases hread
      split at hread
      · cases hread
      next hin =>
      refine ih (cellsOk_storeBytes h ?_) hread
      rw [List.length_take]
      omega

/-- R85: an accepted macro image gives a memory in canonical form and inside the address space. -/
theorem cellsOk_of_loadMacro {c : Config} (hc : c.wf = true) {bs : List Byte} {m : Memory} (h : loadMacro c bs = .ok m) :
    cellsOk (4 * c.memWords) m = true := by
  cases hheader : readHeader .ijvm ijvmMagic bs with
  | error e => simp [loadMacro, hheader] at h
  | ok rest =>
    simp only [loadMacro, hheader] at h
    exact cellsOk_readBlocks (memInit_of_wf hc) h

/-- R310, R313: reset finds nothing to change in a core just constructed. -/
@[simp] theorem resetMachine_constructed (c : Config) (cs : ControlStore) (m : Memory) :
    resetMachine (State.constructed c cs m) = State.constructed c cs m := rfl

/-- R313: a core comes from two readable images that the loaders accept. -/
theorem construct_eq_ok {c : Config} {micro ijvm : Option (List Byte)} {s : State} (h : construct c micro ijvm = .ok s) :
    ∃ mb jb cs m, loadMicrocode c mb = .ok cs ∧ loadMacro c jb = .ok m ∧ s = State.constructed c cs m := by
  cases micro with
  | none => cases h
  | some mb =>
    cases hcs : loadMicrocode c mb with
    | error e => simp [construct, readable, hcs] at h
    | ok cs =>
      cases ijvm with
      | none => simp [construct, readable, hcs] at h
      | some jb =>
        cases hm : loadMacro c jb with
        | error e => simp [construct, readable, hcs, hm] at h
        | ok m =>
          simp only [construct, readable, hcs, hm, resetMachine_constructed] at h
          cases h
          exact ⟨mb, jb, cs, m, hcs, hm, rfl⟩

/-- Settles O13: the loaders give a canonical control store and memory, and reset leaves a constructed core as it is. -/
theorem constructedCoreIsResetAndInvariant : Obligations.ConstructedCoreIsResetAndInvariant := by
  intro c micro ijvm s hc h
  obtain ⟨mb, jb, cs, m, hcs, hm, rfl⟩ := construct_eq_ok h
  exact ⟨inv_constructed hc (wf_of_loadMicrocode hcs) (cellsOk_of_loadMacro hc hm), resetMachine_constructed c cs m,
    rfl, rfl, rfl, rfl⟩

end Sys2Proof.Machine
